-- ==== Sys2Proof/Word.lean ====
section
/-! DEFINITION. The widths of the SGF block's data (spec/00_scope.md R12, R13; spec/10_state.md R34, R58). -/

namespace Sys2Proof

/-- A byte (R12). -/
abbrev Byte := BitVec 8

/-- A 16-bit register field (R36). -/
abbrev Half := BitVec 16

/-- A 32-bit register or command word (R34, R150). -/
abbrev Word := BitVec 32

/-- A 128-bit peer key (R58, R321). -/
abbrev PeerKey := BitVec 128

end Sys2Proof
end

