-- ==== Sys2Proof/Config.lean ====
section
/-! DEFINITION. What an implementation fixes (spec/00_scope.md R8, R9, R11) and the one free value of the
spec (spec/70_reset_and_hazards.md R461). The build parameters are arguments of the model: `State.build`
holds them, and nothing but `State.reset` names a particular build. -/

namespace Sys2Proof

/-- RX_FRAME_MODE (R9, R324): how many bytes of RXBUF a received datagram covers. -/
inductive RxFrameMode where
  /-- the bytes received, RX_LEN cut to BUDGET -/
  | received
  /-- the whole buffer of BUDGET bytes -/
  | full
deriving DecidableEq, Repr

/-- A bound that a model may take as infinite (R9: "A model may take PEER_SLOTS = SLOT_BYTES = infinity"). -/
inductive Limit where
  | finite (n : Nat)
  | unbounded
deriving DecidableEq, Repr

/-- `n` does not exceed the bound. -/
def Limit.admits : Limit → Nat → Bool
  | .finite m, n => decide (n ≤ m)
  | .unbounded, _ => true

/-- The build parameters of R9, as PARAM0..2 report them (R41). KEY_MAX is not open: `Config.keyMax`. -/
structure Build where
  /-- B_MAX: bytes in each of RXBUF, TXBUF and PBUF -/
  bMax : Half
  /-- RX_FRAME_MODE -/
  frameMode : RxFrameMode
  /-- PEER_SLOTS: entries of the ACC peer table -/
  peerSlots : Limit
  /-- SLOT_BYTES: byte capacity of one slot's store -/
  slotBytes : Limit
deriving DecidableEq, Repr

/-- The constraints of R9: 9 <= B_MAX <= 65535, 1 <= PEER_SLOTS <= 256, 1 <= SLOT_BYTES <= 2^31; an
infinite bound is allowed. -/
def Build.wf (b : Build) : Bool :=
  decide (9 ≤ b.bMax.toNat) &&
  (match b.peerSlots with
    | .finite n => decide (1 ≤ n ∧ n ≤ 256)
    | .unbounded => true) &&
  (match b.slotBytes with
    | .finite n => decide (1 ≤ n ∧ n ≤ 2 ^ 31)
    | .unbounded => true)

namespace Config

/-- KEY_MAX: bytes of the KEY RAM, 32 (R9; spec/92_eei_decisions.md D13). -/
def keyMax : Nat := 32

/-- HEADER_SIZE (R8). -/
def headerSize : Nat := 8

/-- MAX_SEGMENTS (R8). -/
def maxSegments : Nat := 65535

/-- The example configuration EX (R11). -/
def ex : Build :=
  { bMax := 64, frameMode := .received, peerSlots := .finite 2, slotBytes := .finite 16 }

/-- The value a host read finds, while BUSY, in the running command's write set: "any value" (R461;
spec/93_implementation_defined.md U14). FREE VALUE: no body, so nothing can be proved of it; the step applies
it to `State.freeReads`. Safe (log 5). -/
opaque freeRead : Nat → Word

end Config

end Sys2Proof
end

