-- ==== Sys2Proof/Syntax.lean ====
section
/-! DEFINITION. The commands of the SGF block (spec/30_encoding.md R150, R152, R159): one constructor per row of
spec/opcode_table.json. A command has no operand in its word: every operand is a register or a RAM byte
that the ENGINE reads when it runs (R155). -/

namespace Sys2Proof

/-- The legal commands, one per legal command word (R152, R157, R159). -/
inductive Instr where
  /-- do nothing but complete (R380) -/
  | nop
  /-- checksum of a region of RXBUF (R202) -/
  | crcRx
  /-- checksum of a region of TXBUF (R202) -/
  | crcTx
  /-- checksum of a region of PBUF (R202) -/
  | crcPb
  /-- keystream over a region of RXBUF (R223) -/
  | xorRx
  /-- keystream over a region of TXBUF (R223) -/
  | xorTx
  /-- keystream over a region of PBUF (R223) -/
  | xorPb
  /-- segment count of a payload (R285) -/
  | plan
  /-- pack, checksum and serialize one segment (R286) -/
  | frame
  /-- FRAME, then encrypt the datagram (R286) -/
  | frameEnc
  /-- serialize a segment with the checksum given (R248) -/
  | serialize
  /-- SERIALIZE, then encrypt the datagram (R248) -/
  | serializeEnc
  /-- parse the received header (R249) -/
  | deserialize
  /-- check the integrity of the segment in RXBUF (R250) -/
  | verify
  /-- receive a plaintext datagram (R326) -/
  | rx
  /-- receive an encrypted datagram (R326) -/
  | rxDec
  /-- end delivery and erase the delivered transfer (R337) -/
  | release
deriving DecidableEq, Repr

/-- The fields of a command word (R150). -/
structure CommandFields where
  /-- bits [7:0] -/
  opcode : BitVec 8
  /-- bit [8], cipher enable -/
  enc : Bool
  /-- bit [9], reserved -/
  reserved9 : Bool
  /-- bits [11:10], buffer select -/
  buf : BitVec 2
  /-- bits [31:12], reserved -/
  reserved : BitVec 20
deriving DecidableEq, Repr

end Sys2Proof
end

