-- ==== Sys2Proof/Machine/State.lean ====
section
/-! DEFINITION. The state of the SGF block: every register, RAM, table entry and hidden latch of spec/10_state.md,
as plain data, with the reset values of R67; and the events of its host port. -/

namespace Sys2Proof.Machine

/-- ENG_STATE (R31). -/
inductive EngState where
  /-- no command is running: a CMD write is accepted -/
  | idle
  /-- the command in PENDING is accepted and not yet finished -/
  | busy
deriving DecidableEq, Repr

/-- STATUS.ERR_CODE (spec/60_exceptions.md R401). `ErrCode.code` gives each its number. -/
inductive ErrCode where
  | ok
  | configTooSmall
  | capacityExceeded
  | bufferTooSmall
  | configRange
  | keyInvalid
  | sliceTooLong
  | range
  | illegalCmd
  | deliverPending
  | notDelivering
  | peerTableFull
  | accOverflow
deriving DecidableEq, Repr

/-- The sticky fault bits (R44, R405). -/
inductive FaultBit where
  | peerTableFull
  | accOverflow
  | cmdOverrun
  | busErr
deriving DecidableEq, Repr

/-- The internal RAMs that a host window shows (R63; spec/20_memory.md R106). -/
inductive Ram where
  | key
  | rxbuf
  | txbuf
  | pbuf
deriving DecidableEq, Repr

/-- The registers of the register map (R34), each under its own name. -/
inductive Csr where
  | id | param0 | param1 | param2
  | ctrl | status | cmd
  | argOff | argLen | result
  | faults | irqStatus | irqEnable
  | budget | keyLen | payloadLen
  | segCrc | segTotal | segIndex | blkLen | segFlags | progPct
  | rxLen | txLen
  | peerKey0 | peerKey1 | peerKey2 | peerKey3
  | rxInfo
  | outLen | outCount | outSlot
  | outPeer0 | outPeer1 | outPeer2 | outPeer3
  | cntRx | cntShort | cntDrop | cntBadCrc | cntDone
  | slotSel | slotInfo | slotCount | slotLen
  | slotKey0 | slotKey1 | slotKey2 | slotKey3
deriving DecidableEq, Repr

/-- Bytes of RAM as (address, byte) pairs. Canonical form (`Memory.wf`): addresses strictly rising, no byte
0, because an address that is not listed reads 0, the reset contents of R67. -/
abbrev Memory := List Host.Cell

/-- One entry of the ACC peer table (R64). COUNT is 32 bits and wraps; LEN is held exactly (log 11). -/
structure Slot where
  /-- VALID: the slot holds a live transfer -/
  valid : Bool
  /-- KEY: the peer of that transfer -/
  key : PeerKey
  /-- COUNT: the segments appended -/
  count : Word
  /-- LEN: the bytes appended -/
  len : Nat
  /-- STORE, by byte offset: the appended blocks in arrival order -/
  store : Memory
deriving DecidableEq, Repr

/-- A slot as reset leaves it (R67). -/
def Slot.free : Slot :=
  { valid := false, key := 0, count := 0, len := 0, store := [] }

/-- RX_INFO (R59). -/
structure RxInfo where
  slot : BitVec 8
  appended : Bool
  isNew : Bool
deriving DecidableEq, Repr

/-- RX_INFO written 0 (R59, R67). -/
def RxInfo.zero : RxInfo :=
  { slot := 0, appended := false, isNew := false }

/-- The width of a host access: 1, 2 or 4 bytes (spec/20_memory.md R109). -/
inductive AccessWidth where
  | w8
  | w16
  | w32
deriving DecidableEq, Repr

/-- What can happen at the block, in the one total order of spec/20_memory.md R135: a host access of the bus
port, the hardware reset (spec/70_reset_and_hazards.md R452), or a moment at which the ENGINE takes its step
if it is BUSY. -/
inductive PortEvent where
  | read (addr : Word) (width : AccessWidth)
  | write (addr : Word) (width : AccessWidth) (data : Word)
  | engine
  | hardReset
deriving DecidableEq, Repr

/-- What ends a run. The block itself has no fault that stops it (spec/60_exceptions.md R400). -/
inductive Fault where
  /-- model_fault(HostHazard) of spec/70_reset_and_hazards.md R462 and R470: a host write, while BUSY, to the
  running command's read set or write set. Raised by the host write of Machine/Port.lean alone, by no
  command. Safe: the run has no further meaning, so nothing can be proved of what follows. -/
  | hostHazard
deriving DecidableEq, Repr

/-- Why an instruction has no meaning. -/
inductive Refusal where
  /-- The instruction has no meaning yet; raised only by an arm of `exec`. No arm raises it. Safe. -/
  | notModelled (mnemonic : String)
deriving DecidableEq, Repr

/-- The machine. The first fields are the model's own (INVENTORY.md); the rest is spec/10_state.md. -/
structure State where
  /-- the build parameters: the contents of PARAM0..2, hardwired (R41) -/
  build : Build
  /-- MODEL: the events still to come, in order (R135, log 3) -/
  arrivals : List PortEvent
  /-- MODEL: the values answered to host reads, newest first (log 4) -/
  replies : List Word
  /-- MODEL: how many free values have been used (R461, log 5) -/
  freeReads : Nat
  /-- ENG_STATE, STATUS[0] (R31) -/
  engState : EngState
  /-- PENDING, read at CMD (R32, R40) -/
  pending : Word
  /-- RESET_PENDING, read at CTRL[0] (R32, R38) -/
  resetPending : Bool
  /-- DELIVER, STATUS[1] (R33) -/
  deliver : Bool
  /-- ERR_CODE, STATUS[15:8] (R39) -/
  errCode : ErrCode
  /-- LAST_OP, STATUS[23:16] (R39) -/
  lastOp : Byte
  /-- ARG_OFF (R42) -/
  argOff : Half
  /-- ARG_LEN (R42) -/
  argLen : Half
  /-- RESULT (R43) -/
  result : Word
  /-- FAULTS[3:0] (R44) -/
  faults : BitVec 4
  /-- IRQ_STATUS[4:0] (R45) -/
  irqStatus : BitVec 5
  /-- IRQ_ENABLE[4:0] (R46) -/
  irqEnable : BitVec 5
  /-- BUDGET (R47) -/
  budget : Half
  /-- KEY_LEN (R48) -/
  keyLen : Byte
  /-- PAYLOAD_LEN (R49) -/
  payloadLen : Word
  /-- SEG_CRC (R50) -/
  segCrc : Word
  /-- SEG_TOTAL (R51) -/
  segTotal : Half
  /-- SEG_INDEX (R52) -/
  segIndex : Half
  /-- BLK_LEN (R53) -/
  blkLen : Half
  /-- SEG_FLAGS[2], INTEGRITY_OK (R54) -/
  integrityOk : Bool
  /-- SEG_FLAGS[3], INTEGRITY_VALID (R54) -/
  integrityValid : Bool
  /-- RX_LEN (R56) -/
  rxLen : Half
  /-- TX_LEN (R57) -/
  txLen : Half
  /-- PEER_KEY0, bits [31:0] of the peer key (R58) -/
  peerKey0 : Word
  /-- PEER_KEY1, bits [63:32] (R58) -/
  peerKey1 : Word
  /-- PEER_KEY2, bits [95:64] (R58) -/
  peerKey2 : Word
  /-- PEER_KEY3, bits [127:96] (R58) -/
  peerKey3 : Word
  /-- RX_INFO (R59) -/
  rxInfo : RxInfo
  /-- OUT_LEN, held exactly (R60, log 11) -/
  outLen : Nat
  /-- OUT_COUNT (R60) -/
  outCount : Word
  /-- OUT_SLOT, held exactly (R60, log 11) -/
  outSlot : Nat
  /-- OUT_PEER3 ‖ OUT_PEER2 ‖ OUT_PEER1 ‖ OUT_PEER0 (R60) -/
  outPeer : PeerKey
  /-- CNT_RX (R61) -/
  cntRx : Word
  /-- CNT_SHORT (R61) -/
  cntShort : Word
  /-- CNT_DROP (R61) -/
  cntDrop : Word
  /-- CNT_BADCRC (R61) -/
  cntBadCrc : Word
  /-- CNT_DONE (R61) -/
  cntDone : Word
  /-- SLOT_SEL (R62) -/
  slotSel : Byte
  /-- the ACC peer table (R64) -/
  slots : List Slot
  /-- KEY, RXBUF, TXBUF and PBUF, each byte at its host-port address (R63, R106) -/
  mem : Memory
deriving DecidableEq, Repr

/-- The empty ACC table of a build (R64, R67): PEER_SLOTS free slots. Without a bound the table grows on
demand, so it starts with none. -/
def State.freeTable : Limit → List Slot
  | .finite n => List.replicate n Slot.free
  | .unbounded => []

/-- The reset state of a build (R67), with nothing due at the port. -/
def State.resetOf (b : Build) : State :=
  { build := b
    arrivals := []
    replies := []
    freeReads := 0
    engState := .idle
    pending := 0
    resetPending := false
    deliver := false
    errCode := .ok
    lastOp := 0
    argOff := 0
    argLen := 0
    result := 0
    faults := 0
    irqStatus := 0
    irqEnable := 0
    budget := 0
    keyLen := 0
    payloadLen := 0
    segCrc := 0
    segTotal := 0
    segIndex := 0
    blkLen := 0
    integrityOk := false
    integrityValid := false
    rxLen := 0
    txLen := 0
    peerKey0 := 0
    peerKey1 := 0
    peerKey2 := 0
    peerKey3 := 0
    rxInfo := RxInfo.zero
    outLen := 0
    outCount := 0
    outSlot := 0
    outPeer := 0
    cntRx := 0
    cntShort := 0
    cntDrop := 0
    cntBadCrc := 0
    cntDone := 0
    slotSel := 0
    slots := State.freeTable b.peerSlots
    mem := [] }

/-- The machine right after reset, in the example build EX (R11, R67). DESIGN CHOICE (log 1): the spec leaves
the build open; every statement about reset is made for `State.resetOf` of any build. -/
def State.reset : State := State.resetOf Config.ex

end Sys2Proof.Machine
end

