-- ==== Sys2Proof/Machine/Ops.lean ====
section
/-! DEFINITION. The operations every command shares: bytes of memory, byte orders, `finish` and `raise FAULT` (the
block's form of taking an exception, spec/60_exceptions.md R402, R406, R412), reset (spec/70_reset_and_hazards.md
R451), and the ACC table (spec/44_reassembly.md R322, R323). -/

namespace Sys2Proof.Machine

/-! ### Memory -/

/-- The byte at `a`; an address that is not listed reads 0 (R67, R107). -/
def Memory.read : Memory → Nat → Byte
  | [], _ => 0
  | (x, b) :: m, a => if x = a then b else Memory.read m a

/-- Drop every entry for `a`. -/
def Memory.erase : Memory → Nat → Memory
  | [], _ => []
  | (x, c) :: m, a => if x = a then Memory.erase m a else (x, c) :: Memory.erase m a

/-- Put an entry before the first higher address. -/
def Memory.insert : Memory → Nat → Byte → Memory
  | [], a, b => [(a, b)]
  | (x, c) :: m, a, b => if a < x then (a, b) :: (x, c) :: m else (x, c) :: Memory.insert m a b

/-- Write one byte, keeping the canonical form: a 0 is not listed (R107). -/
def Memory.write (m : Memory) (a : Nat) (b : Byte) : Memory :=
  if b = 0 then Memory.erase m a else Memory.insert (Memory.erase m a) a b

/-- The `n` bytes from `a` on, lowest address first (R12). -/
def Memory.readBytes (m : Memory) (a : Nat) : Nat → List Byte
  | 0 => []
  | n + 1 => Memory.read m a :: Memory.readBytes m (a + 1) n

/-- Write bytes from `a` on, the first at the lowest address (R12). -/
def Memory.writeBytes (m : Memory) (a : Nat) : List Byte → Memory
  | [] => m
  | b :: bs => Memory.writeBytes (Memory.write m a b) (a + 1) bs

/-- Addresses at or above `lo`, strictly rising, no byte 0. -/
def Memory.wfFrom : Nat → Memory → Bool
  | _, [] => true
  | lo, (x, b) :: m => decide (lo ≤ x) && b != 0 && Memory.wfFrom (x + 1) m

/-- The canonical form: equal memories are equal lists. -/
def Memory.wf (m : Memory) : Bool := Memory.wfFrom 0 m

/-! ### The internal RAMs -/

/-- The host-port address of a RAM's byte 0 (R106). -/
def Ram.base : Ram → Nat
  | .key => 0x1000
  | .rxbuf => 0x10000
  | .txbuf => 0x20000
  | .pbuf => 0x30000

/-- The bytes of a RAM (R63, R106). -/
def Ram.size (b : Build) : Ram → Nat
  | .key => Config.keyMax
  | .rxbuf => b.bMax.toNat
  | .txbuf => b.bMax.toNat
  | .pbuf => b.bMax.toNat

/-- RAM(buf)[i] (R15). -/
def State.ram (s : State) (r : Ram) (i : Nat) : Byte := s.mem.read (r.base + i)

/-- RAM(buf)[o : o+n] (R15). -/
def State.ramBytes (s : State) (r : Ram) (o n : Nat) : List Byte := s.mem.readBytes (r.base + o) n

/-- RAM(buf)[o : o+len(bs)] <- bs (R15). -/
def State.writeRam (s : State) (r : Ram) (o : Nat) (bs : List Byte) : State :=
  { s with mem := s.mem.writeBytes (r.base + o) bs }

/-! ### Byte orders -/

/-- be16 (R14). -/
def be16 (v : Half) : List Byte := [v.extractLsb' 8 8, v.extractLsb' 0 8]

/-- be32 (R14). -/
def be32 (v : Word) : List Byte :=
  [v.extractLsb' 24 8, v.extractLsb' 16 8, v.extractLsb' 8 8, v.extractLsb' 0 8]

/-- S[i], 0 past the end; no rule reads past the end. -/
def byteAt (bs : List Byte) (i : Nat) : Byte := bs.getD i 0

/-- rd_be16 (R14). -/
def rdBe16 (bs : List Byte) (o : Nat) : Half := byteAt bs o ++ byteAt bs (o + 1)

/-- rd_be32 (R14). -/
def rdBe32 (bs : List Byte) (o : Nat) : Word :=
  byteAt bs o ++ byteAt bs (o + 1) ++ byteAt bs (o + 2) ++ byteAt bs (o + 3)

/-- zeros(n) (R12). -/
def zeros (n : Nat) : List Byte := List.replicate n 0

/-- The word whose byte i is the i-th byte of the list: the host port's little-endian lanes, zero above the
bytes given (R102). -/
def laneWord (bs : List Byte) : Word :=
  byteAt bs 3 ++ byteAt bs 2 ++ byteAt bs 1 ++ byteAt bs 0

/-- Byte lane i of a word, v[8i+7:8i] (R102). -/
def lane (v : Word) (i : Nat) : Byte := v.extractLsb' (8 * i) 8

/-- The low `n` byte lanes of a word, lane 0 first (R113). -/
def laneBytes (v : Word) (n : Nat) : List Byte := (List.range n).map (lane v)

/-! ### Completion and faults: the block's exception entry -/

/-- The number of an error code (R401). -/
def ErrCode.code : ErrCode → Byte
  | .ok => 0x00
  | .configTooSmall => 0x01
  | .capacityExceeded => 0x02
  | .bufferTooSmall => 0x03
  | .configRange => 0x04
  | .keyInvalid => 0x05
  | .sliceTooLong => 0x06
  | .range => 0x07
  | .illegalCmd => 0x08
  | .deliverPending => 0x09
  | .notDelivering => 0x0A
  | .peerTableFull => 0x0B
  | .accOverflow => 0x0C

/-- IRQ_STATUS[0], CMD_DONE (R45, R408). -/
def irqCmdDone : BitVec 5 := 0x01

/-- IRQ_STATUS[1], CMD_ERR (R45, R408). -/
def irqCmdErr : BitVec 5 := 0x02

/-- IRQ_STATUS[2], DELIVER (R45, R408). -/
def irqDeliver : BitVec 5 := 0x04

/-- IRQ_STATUS[3], INTEGRITY (R45, R408). -/
def irqIntegrity : BitVec 5 := 0x08

/-- IRQ_STATUS[4], FAULT (R45, R408). -/
def irqFault : BitVec 5 := 0x10

/-- The bits of IRQ_STATUS that finish(code) sets (R402). -/
def finishIrq (code : ErrCode) : BitVec 5 :=
  if code = .ok then irqCmdDone else irqCmdDone ||| irqCmdErr

/-- finish(code) (R402): how every command ends, an error included. -/
def finish (code : ErrCode) (s : State) : State :=
  { s with
    errCode := code
    lastOp := s.pending.extractLsb' 0 8
    irqStatus := s.irqStatus ||| finishIrq code
    engState := .idle }

/-- The FAULTS bit of a fault (R44). -/
def FaultBit.mask : FaultBit → BitVec 4
  | .peerTableFull => 0x1
  | .accOverflow => 0x2
  | .cmdOverrun => 0x4
  | .busErr => 0x8

/-- raise FAULT(bit) (R406). -/
def raiseFault (f : FaultBit) (s : State) : State :=
  { s with
    faults := s.faults ||| f.mask
    irqStatus := s.irqStatus ||| irqFault }

/-! ### Reset -/

/-- Reset (R451): every piece of the block's state to its R67 value. The build is hardwired (R41); what is due
at the port and what it has answered are no state of the block (log 16). -/
def State.resetBlock (s : State) : State :=
  { State.resetOf s.build with
    arrivals := s.arrivals
    replies := s.replies
    freeReads := s.freeReads }

/-- The end of the ENGINE step (R130, R453): a reset requested while BUSY takes effect now. -/
def applyPendingReset (s : State) : State :=
  if s.resetPending then s.resetBlock else s

/-! ### The ACC table -/

/-- Slot j; past the table, a free slot (R62: such a slot reads 0). -/
def State.slot (s : State) (j : Nat) : Slot := s.slots.getD j Slot.free

/-- j < PEER_SLOTS (R62). -/
def tableHolds : Limit → Nat → Bool
  | .finite n, j => decide (j < n)
  | .unbounded, _ => true

/-- lookup(K) (R322): the valid slot whose key is K. -/
def lookup (slots : List Slot) (k : PeerKey) : Option Nat :=
  slots.findIdx? (fun sl => sl.valid && sl.key == k)

/-- alloc() (R323): the lowest-numbered free slot. Without a bound on PEER_SLOTS there is always one: the next
number past the table (R9). -/
def alloc (limit : Limit) (slots : List Slot) : Option Nat :=
  match slots.findIdx? (fun sl => !sl.valid) with
  | some j => some j
  | none =>
    match limit with
    | .finite _ => none
    | .unbounded => some slots.length

/-- Slot j <- x; the number just past an unbounded table extends it. -/
def putSlot (slots : List Slot) (j : Nat) (x : Slot) : List Slot :=
  if j < slots.length then slots.set j x else slots ++ [x]

/-- VALID, KEY, LEN, COUNT <- 0; the STORE bytes stay (R337). -/
def Slot.erase (sl : Slot) : Slot :=
  { sl with valid := false, key := 0, count := 0, len := 0 }

/-- Free slot j; a number past the table names no slot. -/
def freeSlot (slots : List Slot) (j : Nat) : List Slot :=
  slots.modify j Slot.erase

end Sys2Proof.Machine
end

