-- ==== Sys2Proof/Machine/Operands.lean ====
section
/-! DEFINITION. The operands of the commands (spec/30_encoding.md R155): every one is a register or a RAM region read
at the ENGINE step. 16-bit operands are zero-extended and all arithmetic on them is exact (R13). -/

namespace Sys2Proof.Machine

/-- B_MAX of the build (R9). -/
def State.bMax (s : State) : Nat := s.build.bMax.toNat

/-- "B > B_MAX" (R47): the CONFIG_RANGE check. -/
def State.budgetOutOfRange (s : State) : Bool := decide (s.bMax < s.budget.toNat)

/-- key_ok() (R48, R221). -/
def State.keyOk (s : State) : Bool :=
  decide (1 ≤ s.keyLen.toNat ∧ s.keyLen.toNat ≤ Config.keyMax)

/-- "o + n > B_MAX" (R202, R223): the RANGE check of CRC and XOR. -/
def State.regionOutOfRange (s : State) : Bool :=
  decide (s.bMax < s.argOff.toNat + s.argLen.toNat)

/-- RAM(SELBUF)[o : o+n] for o = ARG_OFF, n = ARG_LEN (R202, R223). -/
def State.region (s : State) (r : Ram) : List Byte :=
  s.ramBytes r s.argOff.toNat s.argLen.toNat

/-- K = PEER_KEY3 ‖ PEER_KEY2 ‖ PEER_KEY1 ‖ PEER_KEY0 (R58). -/
def State.peerKey (s : State) : PeerKey :=
  s.peerKey3 ++ s.peerKey2 ++ s.peerKey1 ++ s.peerKey0

/-- rx_extent() (R324). -/
def State.rxExtent (s : State) : Nat :=
  match s.build.frameMode with
  | .received => min s.rxLen.toNat s.budget.toNat
  | .full => s.budget.toNat

/-- maxPayload = B - 8 (R280). -/
def State.maxPayload (s : State) : Nat := s.budget.toNat - Config.headerSize

end Sys2Proof.Machine
end

