-- ==== Sys2Proof/Machine/Checksum.lean ====
section
/-! DEFINITION. The checksum engine and the CRC commands (spec/40_checksum.md). -/

namespace Sys2Proof.Machine

/-- CRC_POLY, reflected (R8, R200). -/
def crcPoly : Word := 0xEDB88320

/-- CRC_INIT (R8, R200). -/
def crcInit : Word := 0xFFFFFFFF

/-- One of the eight bit steps of R200. -/
def crcBit (r : Word) : Word :=
  if r.getLsbD 0 then (r >>> 1) ^^^ crcPoly else r >>> 1

/-- `n` bit steps. -/
def crcBits : Nat → Word → Word
  | 0, r => r
  | n + 1, r => crcBits n (crcBit r)

/-- One byte of R200: exclusive-or into the low byte, then eight bit steps. -/
def crcByte (r : Word) (b : Byte) : Word := crcBits 8 (r ^^^ b.setWidth 32)

/-- The CRC register after the bytes, in string order (R200). -/
def crcRegister (r : Word) : List Byte → Word
  | [] => r
  | b :: bs => crcRegister (crcByte r b) bs

/-- CRC32(S) (R200). -/
def crc32 (bs : List Byte) : Word := ~~~ (crcRegister crcInit bs)

/-- CRC (R202) over the buffer that BUF selects. -/
def crcCommand (r : Ram) (s : State) : State :=
  if s.regionOutOfRange then finish .range s
  else finish .ok { s with result := crc32 (s.region r) }

/-- `CRC rx`, word 0x00000001 (R202). -/
def execCrcRx (s : State) : Host.Outcome State Fault Refusal := .next (crcCommand .rxbuf s)

/-- `CRC tx`, word 0x00000401 (R202). -/
def execCrcTx (s : State) : Host.Outcome State Fault Refusal := .next (crcCommand .txbuf s)

/-- `CRC pb`, word 0x00000801 (R202). -/
def execCrcPb (s : State) : Host.Outcome State Fault Refusal := .next (crcCommand .pbuf s)

end Sys2Proof.Machine
end

