-- ==== Sys2Proof/Machine/Cipher.lean ====
section
/-! DEFINITION. The stream-cipher XOR pipeline and the XOR commands (spec/41_cipher.md). -/

namespace Sys2Proof.Machine

/-- KS of R220 with the keystream index starting at `i`: byte j of the input meets key byte
(i + j) mod KEY_LEN. -/
def keystreamFrom (key : List Byte) (i : Nat) : List Byte → List Byte
  | [] => []
  | b :: bs => (b ^^^ byteAt key (i % key.length)) :: keystreamFrom key (i + 1) bs

/-- KS(S) under a key (R220): the index counts from 0 at the first byte. -/
def keystream (key : List Byte) (bs : List Byte) : List Byte := keystreamFrom key 0 bs

/-- The key, RAM(KEY)[0 : KEY_LEN] (R48, R220). -/
def State.keyBytes (s : State) : List Byte := s.ramBytes .key 0 s.keyLen.toNat

/-- KS(S) under the block's key if ENC asks for it, S itself if not (R153, R248, R286, R325). -/
def State.applyCipher (s : State) (enc : Bool) (bs : List Byte) : List Byte :=
  if enc then keystream s.keyBytes bs else bs

/-- XOR (R223) over the buffer that BUF selects, in place. -/
def xorCommand (r : Ram) (s : State) : State :=
  if s.regionOutOfRange then finish .range s
  else if !s.keyOk then finish .keyInvalid s
  else finish .ok (s.writeRam r s.argOff.toNat (keystream s.keyBytes (s.region r)))

/-- `XOR rx`, word 0x00000002 (R223). -/
def execXorRx (s : State) : Host.Outcome State Fault Refusal := .next (xorCommand .rxbuf s)

/-- `XOR tx`, word 0x00000402 (R223). -/
def execXorTx (s : State) : Host.Outcome State Fault Refusal := .next (xorCommand .txbuf s)

/-- `XOR pb`, word 0x00000802 (R223). -/
def execXorPb (s : State) : Host.Outcome State Fault Refusal := .next (xorCommand .pbuf s)

end Sys2Proof.Machine
end

