-- ==== Sys2Proof/Machine/Flags.lean ====
section
/-! DEFINITION. Combinational status: the flags and words computed from other state (spec/10_state.md R39, R54, R55,
R59, R62; spec/42_framing.md R246, R247, R251, R252; spec/60_exceptions.md R409). -/

namespace Sys2Proof.Machine

/-- isFinal(T, I) (R246). -/
def isFinal (total index : Half) : Bool := index == total

/-- progressPercent(T, I) (R247): the exact rational I * 100 / T, or not-a-number (`none`) when T = 0. -/
def progressPercent (total index : Half) : Option Rat :=
  if total = 0 then none else some ((index.toNat : Rat) * 100 / (total.toNat : Rat))

/-- PROG_PCT (R55, R252): the integer part, 0 when T = 0. -/
def progPct (total index : Half) : Word :=
  if total = 0 then 0 else BitVec.ofNat 32 (index.toNat * 100 / total.toNat)

/-- SEG_FLAGS (R54): FINAL, PROG_NAN, INTEGRITY_OK, INTEGRITY_VALID from bit 0 up. -/
def State.segFlags (s : State) : Word :=
  0#28 ++ BitVec.ofBool s.integrityValid ++ BitVec.ofBool s.integrityOk ++
    BitVec.ofBool (s.segTotal == 0) ++ BitVec.ofBool (isFinal s.segTotal s.segIndex)

/-- The interrupt output (R409): level-sensitive, active high. -/
def State.irqOutput (s : State) : Bool := s.irqStatus &&& s.irqEnable != 0

/-- STATUS (R39). -/
def State.status (s : State) : Word :=
  0#8 ++ s.lastOp ++ s.errCode.code ++ 0#3 ++ BitVec.ofBool s.irqOutput ++
    BitVec.ofBool (s.faults != 0) ++ BitVec.ofBool (s.errCode.code != 0) ++
    BitVec.ofBool s.deliver ++ BitVec.ofBool (s.engState == .busy)

/-- PARAM0 (R41). -/
def param0Word (b : Build) : Word :=
  0#7 ++ BitVec.ofBool (b.frameMode == .full) ++ BitVec.ofNat 8 Config.keyMax ++ b.bMax

/-- PARAM1 and PARAM2 (R41): an unbounded model reads 0xFFFFFFFF. -/
def limitWord : Limit → Word
  | .finite n => BitVec.ofNat 32 n
  | .unbounded => 0xFFFFFFFF

/-- RX_INFO (R59): SLOT in [7:0], APPENDED in [8], NEW in [9]. -/
def RxInfo.word (r : RxInfo) : Word :=
  0#22 ++ BitVec.ofBool r.isNew ++ BitVec.ofBool r.appended ++ r.slot

/-- The slot that SLOT_SEL selects; at or past PEER_SLOTS, one that reads 0 (R62). -/
def State.selectedSlot (s : State) : Slot :=
  if tableHolds s.build.peerSlots s.slotSel.toNat then s.slot s.slotSel.toNat else Slot.free

/-- Slot j is DELIVERING (R62, R320). -/
def State.deliveringSlot (s : State) (j : Nat) : Bool :=
  s.deliver && tableHolds s.build.peerSlots j && s.outSlot == j

/-- SLOT_INFO (R62). -/
def State.slotInfo (s : State) : Word :=
  0#30 ++ BitVec.ofBool (s.deliveringSlot s.slotSel.toNat) ++ BitVec.ofBool s.selectedSlot.valid

/-- Word i of a 128-bit key, bits [32i+31:32i] (R58). -/
def keyWord (k : PeerKey) (i : Nat) : Word := k.extractLsb' (32 * i) 32

/-- OUTWIN byte o (spec/20_memory.md R114). -/
def State.outByte (s : State) (o : Nat) : Byte :=
  if s.deliver && decide (o < s.outLen) then (s.slot s.outSlot).store.read o else 0

end Sys2Proof.Machine
end

