-- ==== Sys2Proof/Machine/Framing.lean ====
section
/-! DEFINITION. Segments and the framing commands SERIALIZE, DESERIALIZE and VERIFY (spec/42_framing.md). -/

namespace Sys2Proof.Machine

/-- A segment (R240): no range of T or I is enforced. -/
structure Segment where
  checksum : Word
  total : Half
  index : Half
  block : List Byte
deriving DecidableEq, Repr

/-- The checksum of a segment: CRC32(be16(T) ‖ be16(I) ‖ block) (R242). -/
def segmentChecksum (total index : Half) (block : List Byte) : Word :=
  crc32 (be16 total ++ be16 index ++ block)

/-- ser (R241, R243). -/
def ser (g : Segment) : List Byte :=
  be32 g.checksum ++ be16 g.total ++ be16 g.index ++ g.block

/-- The segment in a byte string of at least 8 bytes (R244). -/
def parseSegment (p : List Byte) : Segment :=
  { checksum := rdBe32 p 0, total := rdBe16 p 4, index := rdBe16 p 6
    block := p.drop Config.headerSize }

/-- deser (R244): `none` is BUFFER_TOO_SMALL. -/
def deser (p : List Byte) : Option Segment :=
  if p.length < Config.headerSize then none else some (parseSegment p)

/-- verify (R245): advisory only. -/
def verifySegment (g : Segment) : Bool :=
  segmentChecksum g.total g.index g.block == g.checksum

/-- "if r != c : IRQ_STATUS.INTEGRITY <- 1" and SEG_FLAGS[3:2] (R250, R326). -/
def recordIntegrity (ok : Bool) (s : State) : State :=
  { s with
    integrityOk := ok
    integrityValid := true
    irqStatus := if ok then s.irqStatus else s.irqStatus ||| irqIntegrity }

/-- RAM(TXBUF)[0:B] <- D, TX_LEN <- B (R248, R286). -/
def emitDatagram (d : List Byte) (s : State) : State :=
  { s.writeRam .txbuf 0 d with txLen := s.budget }

/-- The segment that SERIALIZE writes: the SEG registers and PBUF[0:k] (R248). -/
def State.serializeSegment (s : State) : Segment :=
  { checksum := s.segCrc, total := s.segTotal, index := s.segIndex
    block := s.ramBytes .pbuf 0 s.blkLen.toNat }

/-- The plaintext datagram of SERIALIZE, zero-filled up to B (R248). -/
def State.serializeDatagram (s : State) : List Byte :=
  ser s.serializeSegment ++ zeros (s.budget.toNat - Config.headerSize - s.blkLen.toNat)

/-- SERIALIZE (R248). -/
def serializeCommand (enc : Bool) (s : State) : State :=
  if s.budgetOutOfRange then finish .configRange s
  else if s.budget.toNat < Config.headerSize + s.blkLen.toNat then finish .bufferTooSmall s
  else if enc && !s.keyOk then finish .keyInvalid s
  else finish .ok (emitDatagram (s.applyCipher enc s.serializeDatagram) s)

/-- `SERIALIZE`, word 0x00000005 (R248). -/
def execSerialize (s : State) : Host.Outcome State Fault Refusal := .next (serializeCommand false s)

/-- `SERIALIZE.enc`, word 0x00000105 (R248). -/
def execSerializeEnc (s : State) : Host.Outcome State Fault Refusal := .next (serializeCommand true s)

/-- SEG_CRC, SEG_TOTAL, SEG_INDEX and BLK_LEN from a received segment (R249, R326). -/
def recordSegment (g : Segment) (s : State) : State :=
  { s with
    segCrc := g.checksum
    segTotal := g.total
    segIndex := g.index
    blkLen := BitVec.ofNat 16 g.block.length }

/-- The segment in RXBUF[0:L] as it stands, not decrypted (R249). -/
def State.receivedSegment (s : State) : Segment :=
  parseSegment (s.ramBytes .rxbuf 0 s.rxExtent)

/-- DESERIALIZE (R249). -/
def deserializeCommand (s : State) : State :=
  if s.budgetOutOfRange then finish .configRange s
  else if s.rxExtent < Config.headerSize then finish .bufferTooSmall s
  else finish .ok
    { recordSegment s.receivedSegment s with integrityOk := false, integrityValid := false }

/-- `DESERIALIZE`, word 0x00000006 (R249). -/
def execDeserialize (s : State) : Host.Outcome State Fault Refusal := .next (deserializeCommand s)

/-- The segment that VERIFY checks: the SEG registers and RXBUF[8 : 8+BLK_LEN] (R250). -/
def State.verifiedSegment (s : State) : Segment :=
  { checksum := s.segCrc, total := s.segTotal, index := s.segIndex
    block := s.ramBytes .rxbuf Config.headerSize s.blkLen.toNat }

/-- VERIFY (R250). -/
def verifyCommand (s : State) : State :=
  if s.bMax < Config.headerSize + s.blkLen.toNat then finish .range s
  else
    let g := s.verifiedSegment
    finish .ok (recordIntegrity (verifySegment g)
      { s with result := segmentChecksum g.total g.index g.block })

/-- `VERIFY`, word 0x00000007 (R250). -/
def execVerify (s : State) : Host.Outcome State Fault Refusal := .next (verifyCommand s)

end Sys2Proof.Machine
end

