-- ==== Sys2Proof/Machine/Batcher.lean ====
section
/-! DEFINITION. The batcher: the split rule, and the commands PLAN and FRAME (spec/43_batcher.md). -/

namespace Sys2Proof.Machine

/-- ceil(n / m) = (n + m - 1) div m (R13). -/
def ceilDiv (n m : Nat) : Nat := (n + m - 1) / m

/-- The block of a slice: copied into a zero-initialised block of m bytes (R280, R283). -/
def packBlock (m : Nat) (slice : List Byte) : List Byte := slice ++ zeros (m - slice.length)

/-- The segment of a block, with its freshly computed checksum (R242, R280). -/
def framedSegment (total index : Half) (block : List Byte) : Segment :=
  { checksum := segmentChecksum total index block, total := total, index := index, block := block }

/-- Slice i of a payload, P[i*m : min(len(P), (i+1)*m)] (R280). -/
def payloadSlice (p : List Byte) (m i : Nat) : List Byte := (p.drop (i * m)).take m

/-- split(P, B) (R280): the source's batcher, which the host's sequence of PLAN and FRAME commands carries out
(R288). An error is the source's ConfigTooSmall or CapacityExceeded (R281, R282). -/
def split (p : List Byte) (b : Nat) : Except ErrCode (List Segment) :=
  if b ≤ Config.headerSize then .error .configTooSmall
  else
    let m := b - Config.headerSize
    let t := ceilDiv p.length m
    if Config.maxSegments < t then .error .capacityExceeded
    else .ok ((List.range t).map fun i =>
      framedSegment (BitVec.ofNat 16 t) (BitVec.ofNat 16 (i + 1)) (packBlock m (payloadSlice p m i)))

/-- The segment count that PLAN computes, ceil(PAYLOAD_LEN / (B - 8)) (R282, R285). -/
def State.plannedCount (s : State) : Nat := ceilDiv s.payloadLen.toNat s.maxPayload

/-- PLAN (R285). -/
def planCommand (s : State) : State :=
  if s.budgetOutOfRange then finish .configRange s
  else if s.budget.toNat ≤ Config.headerSize then finish .configTooSmall s
  else if Config.maxSegments < s.plannedCount then finish .capacityExceeded s
  else finish .ok
    { s with
      result := BitVec.ofNat 32 s.plannedCount
      segTotal := BitVec.ofNat 16 s.plannedCount }

/-- `PLAN`, word 0x00000003 (R285). -/
def execPlan (s : State) : Host.Outcome State Fault Refusal := .next (planCommand s)

/-- The segment that FRAME makes: the slice PBUF[0:BLK_LEN] packed into a block of B - 8 bytes (R286). -/
def State.frameSegment (s : State) : Segment :=
  framedSegment s.segTotal s.segIndex
    (packBlock s.maxPayload (s.ramBytes .pbuf 0 s.blkLen.toNat))

/-- FRAME (R286). -/
def frameCommand (enc : Bool) (s : State) : State :=
  if s.budgetOutOfRange then finish .configRange s
  else if s.budget.toNat ≤ Config.headerSize then finish .configTooSmall s
  else if s.maxPayload < s.blkLen.toNat then finish .sliceTooLong s
  else if enc && !s.keyOk then finish .keyInvalid s
  else
    let g := s.frameSegment
    finish .ok
      { emitDatagram (s.applyCipher enc (ser g)) s with segCrc := g.checksum, result := g.checksum }

/-- `FRAME`, word 0x00000004 (R286). -/
def execFrame (s : State) : Host.Outcome State Fault Refusal := .next (frameCommand false s)

/-- `FRAME.enc`, word 0x00000104 (R286). -/
def execFrameEnc (s : State) : Host.Outcome State Fault Refusal := .next (frameCommand true s)

end Sys2Proof.Machine
end

