-- ==== Sys2Proof/Machine/Control.lean ====
section
/-! DEFINITION. NOP and the illegal command (spec/45_control.md R380, R384). -/

namespace Sys2Proof.Machine

/-- `NOP`, word 0x00000000 (R380). -/
def execNop (s : State) : Host.Outcome State Fault Refusal := .next (finish .ok s)

/-- A word that decodes as ILLEGAL_CMD runs only finish(ILLEGAL_CMD) (R156, R384). -/
def illegalCommand (s : State) : State := finish .illegalCmd s

end Sys2Proof.Machine
end

