-- ==== Sys2Proof/Machine/Reassembly.lean ====
section
/-! DEFINITION. The per-address accumulator and completion detector: the commands RX and RELEASE
(spec/44_reassembly.md). -/

namespace Sys2Proof.Machine

/-- P: the received datagram, decrypted if ENC asks for it, RXBUF itself unchanged (R324, R325). -/
def State.datagram (s : State) (enc : Bool) : List Byte :=
  s.applyCipher enc (s.ramBytes .rxbuf 0 s.rxExtent)

/-- A datagram discarded for a full table or a full slot (R334, R335). -/
def discardDatagram (f : FaultBit) (code : ErrCode) (s : State) : State :=
  finish code (raiseFault f { s with cntDrop := s.cntDrop + 1, rxInfo := RxInfo.zero })

/-- Slot `sl` after appending a block (R326, R327); `isNew` starts it for peer `k`. -/
def Slot.append (sl : Slot) (isNew : Bool) (k : PeerKey) (block : List Byte) : Slot :=
  let base := if isNew then 0 else sl.len
  { valid := true
    key := if isNew then k else sl.key
    count := (if isNew then 0 else sl.count) + 1
    len := base + block.length
    store := sl.store.writeBytes base block }

/-- Steps 4 and 5 of RX (R326 to R328): the append, the SEG registers, the advisory integrity check, RX_INFO. -/
def appendSegment (j : Nat) (isNew : Bool) (g : Segment) (s : State) : State :=
  let ok := verifySegment g
  let s1 : State :=
    { s with
      slots := putSlot s.slots j ((s.slot j).append isNew s.peerKey g.block)
      result := segmentChecksum g.total g.index g.block
      cntBadCrc := if ok then s.cntBadCrc else s.cntBadCrc + 1
      rxInfo := { slot := BitVec.ofNat 8 j, appended := true, isNew := isNew } }
  recordIntegrity ok (recordSegment g s1)

/-- Step 6 of RX: the transfer in slot j is complete, and the block enters DELIVER (R329, R330). -/
def enterDelivery (j : Nat) (s : State) : State :=
  { s with
    deliver := true
    outSlot := j
    outLen := (s.slot j).len
    outCount := (s.slot j).count
    outPeer := s.peerKey
    cntDone := s.cntDone + 1
    irqStatus := s.irqStatus ||| irqDeliver }

/-- RX with the slot found (`isNew = false`) or allocated (`isNew = true`): append and complete, or discard
what does not fit (R326, R329, R335). -/
def receiveInto (j : Nat) (isNew : Bool) (g : Segment) (s : State) : State :=
  let base := if isNew then 0 else (s.slot j).len
  if !s.build.slotBytes.admits (base + g.block.length) then
    discardDatagram .accOverflow .accOverflow s
  else
    let s1 := appendSegment j isNew g s
    finish .ok (if isFinal g.total g.index then enterDelivery j s1 else s1)

/-- RX from the deserialized segment on: the peer's slot, or a new one (R322, R323, R326, R334). -/
def receiveSegment (g : Segment) (s : State) : State :=
  match lookup s.slots s.peerKey with
  | some j => receiveInto j false g s
  | none =>
    match alloc s.build.peerSlots s.slots with
    | some j => receiveInto j true g s
    | none => discardDatagram .peerTableFull .peerTableFull s

/-- RX (R326). -/
def rxCommand (enc : Bool) (s : State) : State :=
  if s.deliver then finish .deliverPending s
  else if s.budgetOutOfRange then finish .configRange s
  else if enc && !s.keyOk then finish .keyInvalid s
  else
    let s1 : State := { s with cntRx := s.cntRx + 1 }
    match deser (s.datagram enc) with
    | none => finish .bufferTooSmall { s1 with cntShort := s1.cntShort + 1, rxInfo := RxInfo.zero }
    | some g => receiveSegment g s1

/-- `RX`, word 0x00000008 (R326). -/
def execRx (s : State) : Host.Outcome State Fault Refusal := .next (rxCommand false s)

/-- `RX.dec`, word 0x00000108 (R326). -/
def execRxDec (s : State) : Host.Outcome State Fault Refusal := .next (rxCommand true s)

/-- RELEASE (R337): OUT_* keep their values, and the STORE bytes stay. -/
def releaseCommand (s : State) : State :=
  if !s.deliver then finish .notDelivering s
  else finish .ok { s with slots := freeSlot s.slots s.outSlot, deliver := false }

/-- `RELEASE`, word 0x00000009 (R337). -/
def execRelease (s : State) : Host.Outcome State Fault Refusal := .next (releaseCommand s)

end Sys2Proof.Machine
end

