-- ==== Sys2Proof/Machine/Dispatch.lean ====
section
/-! DEFINITION. One arm per command: what the ENGINE does with it (spec/30_encoding.md R152). -/

namespace Sys2Proof.Machine

def exec (i : Instr) (s : State) : Host.Outcome State Fault Refusal :=
  match i with
  | .nop => Sys2Proof.Machine.execNop s
  | .crcRx => Sys2Proof.Machine.execCrcRx s
  | .crcTx => Sys2Proof.Machine.execCrcTx s
  | .crcPb => Sys2Proof.Machine.execCrcPb s
  | .xorRx => Sys2Proof.Machine.execXorRx s
  | .xorTx => Sys2Proof.Machine.execXorTx s
  | .xorPb => Sys2Proof.Machine.execXorPb s
  | .plan => Sys2Proof.Machine.execPlan s
  | .frame => Sys2Proof.Machine.execFrame s
  | .frameEnc => Sys2Proof.Machine.execFrameEnc s
  | .serialize => Sys2Proof.Machine.execSerialize s
  | .serializeEnc => Sys2Proof.Machine.execSerializeEnc s
  | .deserialize => Sys2Proof.Machine.execDeserialize s
  | .verify => Sys2Proof.Machine.execVerify s
  | .rx => Sys2Proof.Machine.execRx s
  | .rxDec => Sys2Proof.Machine.execRxDec s
  | .release => Sys2Proof.Machine.execRelease s

end Sys2Proof.Machine
end

