-- ==== Sys2Proof/WellFormed.lean ====
section
/-! DEFINITION. When the fields of a command word are legal: the five checks of spec/30_encoding.md R156, one
definition each. A command of `Instr` has no operands, so no value of `Instr` is ill-formed by itself; what
can be ill-formed is a command word. -/

namespace Sys2Proof

/-- "if w[31:12] != 0 or w[9] != 0": the reserved bits are clear (R156, R158). -/
def CommandFields.reservedClear (f : CommandFields) : Bool :=
  f.reserved == 0 && !f.reserved9

/-- "if op > 0x09": the opcode is defined (R152, R156). -/
def CommandFields.opcodeDefined (f : CommandFields) : Bool :=
  decide (f.opcode.toNat ≤ 9)

/-- ENC = 1 only with FRAME, SERIALIZE and RX (R153, R156). -/
def CommandFields.encAllowed (f : CommandFields) : Bool :=
  !f.enc || f.opcode == 4 || f.opcode == 5 || f.opcode == 8

/-- BUF is non-zero only with CRC and XOR (R154, R156). -/
def CommandFields.bufAllowed (f : CommandFields) : Bool :=
  f.buf == 0 || f.opcode == 1 || f.opcode == 2

/-- BUF = 11 is reserved (R154, R156). -/
def CommandFields.bufDefined (f : CommandFields) : Bool :=
  f.buf != 3

/-- All checks of R156: the word is a legal command. -/
def CommandFields.wellFormed (f : CommandFields) : Bool :=
  f.reservedClear && f.opcodeDefined && f.encAllowed && f.bufAllowed && f.bufDefined

end Sys2Proof
end

