-- ==== Sys2Proof/Decode.lean ====
section
/-! DEFINITION. Decoding and encoding command words (spec/30_encoding.md R150 to R159). Decoding is total: every
32-bit word is a command or is refused by name, and every refusal executes as ILLEGAL_CMD (R157, R158). -/

namespace Sys2Proof

/-- Why a word is no command: the checks of R156 in their order. All of them execute as ILLEGAL_CMD. -/
inductive DecodeError where
  /-- a reserved bit is set: w[31:12] or w[9] -/
  | reservedBits
  /-- an opcode above 0x09 -/
  | reservedOpcode
  /-- ENC = 1 with an opcode that does not take it -/
  | encNotAllowed
  /-- BUF ≠ 00 with an opcode that does not take it -/
  | bufNotAllowed
  /-- BUF = 11 -/
  | bufReserved
deriving DecidableEq, Repr

/-- The fields of a word by their bit positions (R150). -/
def fieldsOf (w : Word) : CommandFields :=
  { opcode := w.extractLsb' 0 8
    enc := w.getLsbD 8
    reserved9 := w.getLsbD 9
    buf := w.extractLsb' 10 2
    reserved := w.extractLsb' 12 20 }

/-- The row that a CRC or XOR word's BUF field selects (R154). -/
def bufferRow (onRx onTx onPb : Instr) (buf : BitVec 2) : Except DecodeError Instr :=
  match buf.toNat with
  | 0 => .ok onRx
  | 1 => .ok onTx
  | 2 => .ok onPb
  | _ => .error .bufReserved

/-- The command of an opcode with its ENC and BUF fields (R152, R153, R154). -/
def rowOf (f : CommandFields) : Except DecodeError Instr :=
  match f.opcode.toNat with
  | 0 => .ok .nop
  | 1 => bufferRow .crcRx .crcTx .crcPb f.buf
  | 2 => bufferRow .xorRx .xorTx .xorPb f.buf
  | 3 => .ok .plan
  | 4 => .ok (if f.enc then .frameEnc else .frame)
  | 5 => .ok (if f.enc then .serializeEnc else .serialize)
  | 6 => .ok .deserialize
  | 7 => .ok .verify
  | 8 => .ok (if f.enc then .rxDec else .rx)
  | 9 => .ok .release
  | _ => .error .reservedOpcode

/-- The decoder of R156, its checks in their order. -/
def decode (w : Word) : Except DecodeError Instr :=
  let f := fieldsOf w
  if !f.reservedClear then .error .reservedBits
  else if !f.opcodeDefined then .error .reservedOpcode
  else if !f.encAllowed then .error .encNotAllowed
  else if !f.bufAllowed then .error .bufNotAllowed
  else if !f.bufDefined then .error .bufReserved
  else rowOf f

/-- A legal word's fields from its opcode, ENC and BUF: every reserved bit is 0 (R150). -/
def commandFields (opcode : BitVec 8) (enc : Bool) (buf : BitVec 2) : CommandFields :=
  { opcode := opcode, enc := enc, reserved9 := false, buf := buf, reserved := 0 }

/-- The encoding of each command (the table of R159). -/
def Instr.fields : Instr → CommandFields
  | .nop => commandFields 0x00 false 0
  | .crcRx => commandFields 0x01 false 0
  | .crcTx => commandFields 0x01 false 1
  | .crcPb => commandFields 0x01 false 2
  | .xorRx => commandFields 0x02 false 0
  | .xorTx => commandFields 0x02 false 1
  | .xorPb => commandFields 0x02 false 2
  | .plan => commandFields 0x03 false 0
  | .frame => commandFields 0x04 false 0
  | .frameEnc => commandFields 0x04 true 0
  | .serialize => commandFields 0x05 false 0
  | .serializeEnc => commandFields 0x05 true 0
  | .deserialize => commandFields 0x06 false 0
  | .verify => commandFields 0x07 false 0
  | .rx => commandFields 0x08 false 0
  | .rxDec => commandFields 0x08 true 0
  | .release => commandFields 0x09 false 0

/-- The word of its fields, most significant field first (R150). -/
def packFields (f : CommandFields) : Word :=
  f.reserved ++ f.buf ++ BitVec.ofBool f.reserved9 ++ BitVec.ofBool f.enc ++ f.opcode

/-- The command word of a command (R159). -/
def encode (i : Instr) : Word :=
  packFields i.fields

/-- The instruction that `decode` reads from the bits `w` of an opcode-table row: a command is exactly one
32-bit word (R151), so a value that does not fit one is none. -/
def decodeTableWord (nbits w : Nat) : Option Instr :=
  let v := w % 2 ^ nbits
  if v < 2 ^ 32 then
    match decode (BitVec.ofNat 32 v) with
    | .ok i => some i
    | .error _ => none
  else none

end Sys2Proof
end

