-- ==== Sys2Proof/Machine/Hazards.lean ====
section
/-! DEFINITION. What each command reads and writes (spec/70_reset_and_hazards.md R460), and which host accesses overlap
a running command (R461, R462). -/

namespace Sys2Proof.Machine

/-- A region of an internal RAM, RAM(ram)[off : off+len]. -/
structure RamRange where
  ram : Ram
  off : Nat
  len : Nat
deriving DecidableEq, Repr

/-- The read set R and the write set W of a command (R460). STATUS and IRQ_STATUS are in neither: R461 and
spec/60_exceptions.md R410 govern them. -/
structure Footprint where
  readCsrs : List Csr
  readRams : List RamRange
  writeCsrs : List Csr
  writeRams : List RamRange
  /-- OUTWIN is in W -/
  writesOutwin : Bool
deriving DecidableEq, Repr

/-- The footprint of a command that touches nothing (R460, NOP). -/
def Footprint.none : Footprint :=
  { readCsrs := [], readRams := [], writeCsrs := [], writeRams := [], writesOutwin := false }

/-- SELBUF[o : o+n] (R460). -/
def State.regionRange (s : State) (r : Ram) : RamRange :=
  { ram := r, off := s.argOff.toNat, len := s.argLen.toNat }

/-- KEY[0:KEY_LEN] (R460). -/
def State.keyRange (s : State) : RamRange := { ram := .key, off := 0, len := s.keyLen.toNat }

/-- SEG_FLAGS and PROG_PCT follow the SEG registers combinationally (R460). -/
def segStatusCsrs : List Csr := [.segFlags, .progPct]

/-- The slot inspection registers (R62, R460). -/
def slotCsrs : List Csr :=
  [.slotInfo, .slotCount, .slotLen, .slotKey0, .slotKey1, .slotKey2, .slotKey3]

/-- CRC's row of R460. -/
def crcFootprint (r : Ram) (s : State) : Footprint :=
  { Footprint.none with
    readCsrs := [.argOff, .argLen], readRams := [s.regionRange r], writeCsrs := [.result] }

/-- XOR's row of R460. -/
def xorFootprint (r : Ram) (s : State) : Footprint :=
  { Footprint.none with
    readCsrs := [.argOff, .argLen, .keyLen]
    readRams := [s.keyRange, s.regionRange r]
    writeRams := [s.regionRange r] }

/-- PLAN's row of R460. -/
def planFootprint : Footprint :=
  { Footprint.none with
    readCsrs := [.budget, .payloadLen], writeCsrs := [.result, .segTotal] ++ segStatusCsrs }

/-- The registers and bytes that ENC adds to a read set (R460). -/
def encCsrs (enc : Bool) : List Csr := if enc then [.keyLen] else []

/-- The key bytes that ENC adds to a read set (R460). -/
def State.encRanges (s : State) (enc : Bool) : List RamRange := if enc then [s.keyRange] else []

/-- PBUF[0:BLK_LEN] (R460). -/
def State.sliceRange (s : State) : RamRange := { ram := .pbuf, off := 0, len := s.blkLen.toNat }

/-- TXBUF[0:B] (R460). -/
def State.txRange (s : State) : RamRange := { ram := .txbuf, off := 0, len := s.budget.toNat }

/-- RXBUF[0:B] (R460). -/
def State.rxRange (s : State) : RamRange := { ram := .rxbuf, off := 0, len := s.budget.toNat }

/-- FRAME's row of R460. -/
def frameFootprint (enc : Bool) (s : State) : Footprint :=
  { Footprint.none with
    readCsrs := [.budget, .segTotal, .segIndex, .blkLen] ++ encCsrs enc
    readRams := s.sliceRange :: s.encRanges enc
    writeCsrs := [.segCrc, .result, .txLen]
    writeRams := [s.txRange] }

/-- SERIALIZE's row of R460. -/
def serializeFootprint (enc : Bool) (s : State) : Footprint :=
  { Footprint.none with
    readCsrs := [.budget, .segCrc, .segTotal, .segIndex, .blkLen] ++ encCsrs enc
    readRams := s.sliceRange :: s.encRanges enc
    writeCsrs := [.txLen]
    writeRams := [s.txRange] }

/-- The SEG registers that a received segment writes (R460). -/
def segCsrs : List Csr := [.segCrc, .segTotal, .segIndex, .blkLen] ++ segStatusCsrs

/-- DESERIALIZE's row of R460. -/
def deserializeFootprint (s : State) : Footprint :=
  { Footprint.none with
    readCsrs := [.budget, .rxLen], readRams := [s.rxRange], writeCsrs := segCsrs }

/-- VERIFY's row of R460. -/
def verifyFootprint (s : State) : Footprint :=
  { Footprint.none with
    readCsrs := [.segCrc, .segTotal, .segIndex, .blkLen]
    readRams := [{ ram := .rxbuf, off := Config.headerSize, len := s.blkLen.toNat }]
    writeCsrs := [.result, .segFlags] }

/-- The OUT_* and CNT_* registers of RX's write set (R460). -/
def deliveryCsrs : List Csr :=
  [.outLen, .outCount, .outSlot, .outPeer0, .outPeer1, .outPeer2, .outPeer3,
    .cntRx, .cntShort, .cntDrop, .cntBadCrc, .cntDone]

/-- RX's row of R460, without STATUS.DELIVER: a read of STATUS is always defined (R461), and a host write of STATUS
while RX runs is ignored and no hazard (DEDUCED, unsafe, log 21). -/
def rxFootprint (enc : Bool) (s : State) : Footprint :=
  { readCsrs := [.budget, .rxLen, .peerKey0, .peerKey1, .peerKey2, .peerKey3] ++ encCsrs enc
    readRams := s.rxRange :: s.encRanges enc
    writeCsrs := segCsrs ++ [.result, .rxInfo, .faults] ++ deliveryCsrs ++ slotCsrs
    writeRams := []
    writesOutwin := true }

/-- RELEASE's row of R460, without STATUS.DELIVER: a read of STATUS is always defined (R461), and a host write of STATUS
while RELEASE runs is ignored and no hazard (DEDUCED, unsafe, log 21). -/
def releaseFootprint : Footprint :=
  { Footprint.none with readCsrs := [.outSlot], writeCsrs := slotCsrs, writesOutwin := true }

/-- The table of R460. -/
def instrFootprint (s : State) : Instr → Footprint
  | .nop => Footprint.none
  | .crcRx => crcFootprint .rxbuf s
  | .crcTx => crcFootprint .txbuf s
  | .crcPb => crcFootprint .pbuf s
  | .xorRx => xorFootprint .rxbuf s
  | .xorTx => xorFootprint .txbuf s
  | .xorPb => xorFootprint .pbuf s
  | .plan => planFootprint
  | .frame => frameFootprint false s
  | .frameEnc => frameFootprint true s
  | .serialize => serializeFootprint false s
  | .serializeEnc => serializeFootprint true s
  | .deserialize => deserializeFootprint s
  | .verify => verifyFootprint s
  | .rx => rxFootprint false s
  | .rxDec => rxFootprint true s
  | .release => releaseFootprint

/-- The footprint in force: the running command's while BUSY, nothing in IDLE. A word that decodes as
ILLEGAL_CMD reads and writes nothing (R384; DEDUCED, log 9). -/
def State.footprint (s : State) : Footprint :=
  match s.engState with
  | .idle => Footprint.none
  | .busy =>
    match decode s.pending with
    | .ok i => instrFootprint s i
    | .error _ => Footprint.none

/-- Byte o of RAM r lies in the range. -/
def RamRange.holds (g : RamRange) (r : Ram) (o : Nat) : Bool :=
  g.ram == r && decide (g.off ≤ o) && decide (o < g.off + g.len)

/-- The registers that always read a defined value (R461). -/
def Csr.alwaysDefined : Csr → Bool
  | .status | .irqStatus | .faults | .irqEnable | .ctrl | .cmd => true
  | .id | .param0 | .param1 | .param2 => true
  | _ => false

/-- The registers whose write while BUSY has a defined result (R462). -/
def Csr.writeDefined : Csr → Bool
  | .cmd | .faults | .irqStatus | .ctrl | .irqEnable => true
  | _ => false

/-- A host read of the register finds any value (R461). -/
def Footprint.freeCsr (f : Footprint) (r : Csr) : Bool :=
  f.writeCsrs.contains r && !r.alwaysDefined

/-- A host read of the RAM byte finds any value (R461). -/
def Footprint.freeByte (f : Footprint) (r : Ram) (o : Nat) : Bool :=
  f.writeRams.any fun g => g.holds r o

/-- A host write of the register is a hazard (R462). STATUS is in no set of R460's, so its write is none (DEDUCED,
unsafe, log 21). -/
def Footprint.hazardCsr (f : Footprint) (r : Csr) : Bool :=
  (f.readCsrs.contains r || f.writeCsrs.contains r) && !r.writeDefined

/-- A host write of the RAM byte is a hazard (R462). -/
def Footprint.hazardByte (f : Footprint) (r : Ram) (o : Nat) : Bool :=
  (f.readRams ++ f.writeRams).any fun g => g.holds r o

end Sys2Proof.Machine
end

