-- ==== Sys2Proof/Machine/Registers.lean ====
section
/-! DEFINITION. The register map: offsets, reads and writes of every register (spec/10_state.md R34 to R62;
spec/20_memory.md R110, R112). -/

namespace Sys2Proof.Machine

/-- The register at a byte offset in 0x000-0xFFF; an offset not listed is unmapped (R34). -/
def Csr.atOffset : Nat → Option Csr
  | 0x000 => some .id
  | 0x004 => some .param0
  | 0x008 => some .param1
  | 0x00C => some .param2
  | 0x010 => some .ctrl
  | 0x014 => some .status
  | 0x018 => some .cmd
  | 0x01C => some .argOff
  | 0x020 => some .argLen
  | 0x024 => some .result
  | 0x028 => some .faults
  | 0x02C => some .irqStatus
  | 0x030 => some .irqEnable
  | 0x040 => some .budget
  | 0x044 => some .keyLen
  | 0x048 => some .payloadLen
  | 0x050 => some .segCrc
  | 0x054 => some .segTotal
  | 0x058 => some .segIndex
  | 0x05C => some .blkLen
  | 0x060 => some .segFlags
  | 0x064 => some .progPct
  | 0x068 => some .rxLen
  | 0x06C => some .txLen
  | 0x070 => some .peerKey0
  | 0x074 => some .peerKey1
  | 0x078 => some .peerKey2
  | 0x07C => some .peerKey3
  | 0x080 => some .rxInfo
  | 0x090 => some .outLen
  | 0x094 => some .outCount
  | 0x098 => some .outSlot
  | 0x0A0 => some .outPeer0
  | 0x0A4 => some .outPeer1
  | 0x0A8 => some .outPeer2
  | 0x0AC => some .outPeer3
  | 0x0B0 => some .cntRx
  | 0x0B4 => some .cntShort
  | 0x0B8 => some .cntDrop
  | 0x0BC => some .cntBadCrc
  | 0x0C0 => some .cntDone
  | 0x0D0 => some .slotSel
  | 0x0D4 => some .slotInfo
  | 0x0D8 => some .slotCount
  | 0x0DC => some .slotLen
  | 0x0E0 => some .slotKey0
  | 0x0E4 => some .slotKey1
  | 0x0E8 => some .slotKey2
  | 0x0EC => some .slotKey3
  | _ => none

/-- ID (R41), the ASCII bytes "SGF1". -/
def idWord : Word := 0x53474631

/-- The value of a register (R34 to R62); a read has no side effect (R110). -/
def State.readCsr (s : State) : Csr → Word
  | .id => idWord
  | .param0 => param0Word s.build
  | .param1 => limitWord s.build.peerSlots
  | .param2 => limitWord s.build.slotBytes
  | .ctrl => (BitVec.ofBool s.resetPending).setWidth 32
  | .status => s.status
  | .cmd => s.pending
  | .argOff => s.argOff.setWidth 32
  | .argLen => s.argLen.setWidth 32
  | .result => s.result
  | .faults => s.faults.setWidth 32
  | .irqStatus => s.irqStatus.setWidth 32
  | .irqEnable => s.irqEnable.setWidth 32
  | .budget => s.budget.setWidth 32
  | .keyLen => s.keyLen.setWidth 32
  | .payloadLen => s.payloadLen
  | .segCrc => s.segCrc
  | .segTotal => s.segTotal.setWidth 32
  | .segIndex => s.segIndex.setWidth 32
  | .blkLen => s.blkLen.setWidth 32
  | .segFlags => s.segFlags
  | .progPct => progPct s.segTotal s.segIndex
  | .rxLen => s.rxLen.setWidth 32
  | .txLen => s.txLen.setWidth 32
  | .peerKey0 => s.peerKey0
  | .peerKey1 => s.peerKey1
  | .peerKey2 => s.peerKey2
  | .peerKey3 => s.peerKey3
  | .rxInfo => s.rxInfo.word
  | .outLen => BitVec.ofNat 32 s.outLen
  | .outCount => s.outCount
  | .outSlot => (BitVec.ofNat 8 s.outSlot).setWidth 32
  | .outPeer0 => keyWord s.outPeer 0
  | .outPeer1 => keyWord s.outPeer 1
  | .outPeer2 => keyWord s.outPeer 2
  | .outPeer3 => keyWord s.outPeer 3
  | .cntRx => s.cntRx
  | .cntShort => s.cntShort
  | .cntDrop => s.cntDrop
  | .cntBadCrc => s.cntBadCrc
  | .cntDone => s.cntDone
  | .slotSel => s.slotSel.setWidth 32
  | .slotInfo => s.slotInfo
  | .slotCount => s.selectedSlot.count
  | .slotLen => BitVec.ofNat 32 s.selectedSlot.len
  | .slotKey0 => keyWord s.selectedSlot.key 0
  | .slotKey1 => keyWord s.selectedSlot.key 1
  | .slotKey2 => keyWord s.selectedSlot.key 2
  | .slotKey3 => keyWord s.selectedSlot.key 3

/-- A write of CMD (R40, R381, R382). -/
def issueCommand (w : Word) (s : State) : State :=
  match s.engState with
  | .idle => { s with pending := w, engState := .busy }
  | .busy => raiseFault .cmdOverrun s

/-- A write of CTRL (R38, R385, R453). -/
def writeCtrl (v : Word) (s : State) : State :=
  if v.getLsbD 0 then
    match s.engState with
    | .idle => s.resetBlock
    | .busy => { s with resetPending := true }
  else s

/-- A 32-bit host write of a register (R35, R36, R112): RW stores the defined field, RO ignores it, RW1C clears
the bits written 1, CMD issues a command, CTRL may request a reset. -/
def State.writeCsr (s : State) (v : Word) : Csr → State
  | .ctrl => writeCtrl v s
  | .cmd => issueCommand v s
  | .argOff => { s with argOff := v.setWidth 16 }
  | .argLen => { s with argLen := v.setWidth 16 }
  | .faults => { s with faults := s.faults &&& ~~~ (v.setWidth 4) }
  | .irqStatus => { s with irqStatus := s.irqStatus &&& ~~~ (v.setWidth 5) }
  | .irqEnable => { s with irqEnable := v.setWidth 5 }
  | .budget => { s with budget := v.setWidth 16 }
  | .keyLen => { s with keyLen := v.setWidth 8 }
  | .payloadLen => { s with payloadLen := v }
  | .segCrc => { s with segCrc := v }
  | .segTotal => { s with segTotal := v.setWidth 16 }
  | .segIndex => { s with segIndex := v.setWidth 16 }
  | .blkLen => { s with blkLen := v.setWidth 16 }
  | .rxLen => { s with rxLen := v.setWidth 16 }
  | .peerKey0 => { s with peerKey0 := v }
  | .peerKey1 => { s with peerKey1 := v }
  | .peerKey2 => { s with peerKey2 := v }
  | .peerKey3 => { s with peerKey3 := v }
  | .slotSel => { s with slotSel := v.setWidth 8 }
  | .id | .param0 | .param1 | .param2 | .status | .result | .segFlags | .progPct | .txLen | .rxInfo => s
  | .outLen | .outCount | .outSlot | .outPeer0 | .outPeer1 | .outPeer2 | .outPeer3 => s
  | .cntRx | .cntShort | .cntDrop | .cntBadCrc | .cntDone => s
  | .slotInfo | .slotCount | .slotLen | .slotKey0 | .slotKey1 | .slotKey2 | .slotKey3 => s

end Sys2Proof.Machine
end

