-- ==== Sys2Proof/Machine/Port.lean ====
section
/-! DEFINITION. The host port: the address map, bus errors, and host reads and writes, also while a command is running
(spec/20_memory.md R102 to R117; spec/70_reset_and_hazards.md R461, R462). -/

namespace Sys2Proof.Machine

/-- The bytes of an access (R109). -/
def AccessWidth.bytes : AccessWidth → Nat
  | .w8 => 1
  | .w16 => 2
  | .w32 => 4

/-- What a legal access reaches (R106): a register, a RAM at a byte offset, or OUTWIN at a byte offset. -/
inductive Target where
  | csr (r : Csr)
  | ram (r : Ram) (off : Nat)
  | outwin (off : Nat)
deriving DecidableEq, Repr

/-- A window byte range of a RAM: mapped when all n bytes lie below its size (R106, R108). -/
def ramTarget (b : Build) (r : Ram) (off n : Nat) : Option Target :=
  if off + n ≤ r.size b then some (.ram r off) else none

/-- The address map of R106 with the alignment and width rules of R108. `none` is a bus error (R115): unmapped,
misaligned, of an illegal width, or not whole in one region. -/
def locate (b : Build) (addr : Word) (width : AccessWidth) : Option Target :=
  let a := addr.toNat
  let n := width.bytes
  if a % n ≠ 0 then none
  else if a < 0x1000 then
    if width = .w32 then (Csr.atOffset a).map .csr else none
  else if a < 0x2000 then ramTarget b .key (a - 0x1000) n
  else if a < 0x10000 then none
  else if a < 0x20000 then ramTarget b .rxbuf (a - 0x10000) n
  else if a < 0x30000 then ramTarget b .txbuf (a - 0x20000) n
  else if a < 0x40000 then ramTarget b .pbuf (a - 0x30000) n
  else if a < 0x80000000 then none
  else if b.slotBytes.admits (a - 0x80000000 + n) then some (.outwin (a - 0x80000000))
  else none

/-- The port answers a host read with a value (log 4). -/
def State.reply (s : State) (v : Word) : State := { s with replies := v :: s.replies }

/-- The port answers with a value that took bytes of a free value (R461): the next use is a new one. -/
def State.replyFree (s : State) (v : Word) : State :=
  { s with replies := v :: s.replies, freeReads := s.freeReads + 1 }

/-- The free value of this read: the whole word for a register, its byte lanes for a window (R461). -/
def State.freeWord (s : State) : Word := Config.freeRead s.freeReads

/-- A host read of n bytes of a window, byte by byte: a byte in the running command's write set reads any
value, every other its current one (R111, R114, R461). -/
def readWindow (s : State) (n : Nat) (value : Nat → Byte) (free : Nat → Bool) : State :=
  let offs := List.range n
  let bytes := offs.map fun i => if free i then lane s.freeWord i else value i
  if offs.any free then s.replyFree (laneWord bytes) else s.reply (laneWord bytes)

/-- MemRead(a, n) (R110, R111, R114, R115, R461). A narrow read answers in the low lanes, zero above. -/
def hostRead (addr : Word) (width : AccessWidth) (s : State) : State :=
  match locate s.build addr width with
  | none => (raiseFault .busErr s).reply 0
  | some (.csr r) =>
    if s.footprint.freeCsr r then s.replyFree s.freeWord else s.reply (s.readCsr r)
  | some (.ram r o) =>
    readWindow s width.bytes (fun i => s.ram r (o + i)) (fun i => s.footprint.freeByte r (o + i))
  | some (.outwin o) =>
    readWindow s width.bytes (fun i => s.outByte (o + i)) (fun _ => s.footprint.writesOutwin)

/-- MemWrite(a, n, v) (R112, R113, R115, R462). An access that names no location is a bus error (log 7); one that
names a location of the running command's read or write set is a hazard, OUTWIN included; a write of OUTWIN is
otherwise a bus error. -/
def hostWrite (addr : Word) (width : AccessWidth) (v : Word) (s : State) :
    Host.Outcome State Fault Refusal :=
  match locate s.build addr width with
  | none => .next (raiseFault .busErr s)
  | some (.outwin _) =>
    if s.footprint.writesOutwin then .fault .hostHazard else .next (raiseFault .busErr s)
  | some (.csr r) =>
    if s.footprint.hazardCsr r then .fault .hostHazard else .next (s.writeCsr v r)
  | some (.ram r o) =>
    if (List.range width.bytes).any (fun i => s.footprint.hazardByte r (o + i)) then
      .fault .hostHazard
    else .next (s.writeRam r o (laneBytes v width.bytes))

end Sys2Proof.Machine
end

