-- ==== Sys2Proof/Machine/Step.lean ====
section
/-! DEFINITION. One step of the machine: the next event of the total order of spec/20_memory.md R135, which is a host
access, the hardware reset, or the ENGINE's step (R130). -/

namespace Sys2Proof.Machine

/-- The end of the ENGINE step: a pending reset is applied (R130, R453). -/
def endEngineStep : Host.Outcome State Fault Refusal → Host.Outcome State Fault Refusal
  | .next t => .next (applyPendingReset t)
  | .fault f => .fault f
  | .refused r => .refused r

/-- The ENGINE (R130): while BUSY, decode PENDING and run the command to its finish; in IDLE, no step. -/
def engineStep (s : State) : Host.Outcome State Fault Refusal :=
  match s.engState with
  | .idle => .next s
  | .busy =>
    match decode s.pending with
    | .ok i => endEngineStep (exec i s)
    | .error _ => endEngineStep (.next (illegalCommand s))

/-- One event at the block. -/
def handleEvent (e : PortEvent) (s : State) : Host.Outcome State Fault Refusal :=
  match e with
  | .read addr width => .next (hostRead addr width s)
  | .write addr width data => hostWrite addr width data s
  | .engine => engineStep s
  | .hardReset => .next s.resetBlock

/-- The step: the next event due, or, when none is, the ENGINE's step (R130, R135, R468). An IDLE block with
nothing due waits (R450). -/
def step (s : State) : Host.Outcome State Fault Refusal :=
  match s.arrivals with
  | [] => engineStep s
  | e :: rest => handleEvent e { s with arrivals := rest }

/-- `s` with the command word `w` accepted in PENDING, the engine BUSY, and the ENGINE's turn next: what a
host's write of CMD and the wait for the engine leave (R40, R381, log 2). -/
def State.withFetchWord (s : State) (nbits w : Nat) : State :=
  { s with
    pending := BitVec.ofNat 32 (w % 2 ^ nbits)
    engState := .busy
    arrivals := .engine :: s.arrivals }

end Sys2Proof.Machine
end

