-- ==== Sys2Proof/Safety.lean ====
section
/-! DEFINITION. What a good state and a good run are, in the terms the statements use. -/

namespace Sys2Proof.Machine

/-- The address is a byte of one of the four RAM windows (spec/20_memory.md R106). -/
def mappedAddress (b : Build) (a : Nat) : Bool :=
  [Ram.key, .rxbuf, .txbuf, .pbuf].any fun r => decide (r.base ≤ a) && decide (a < r.base + r.size b)

/-- The table has PEER_SLOTS entries; without a bound, any number (R9, R64). -/
def tableSizeOk : Limit → Nat → Bool
  | .finite n, k => k == n
  | .unbounded, _ => true

/-- What R64 says of one slot: LEN <= SLOT_BYTES, a slot with VALID = 0 has LEN = 0 and COUNT = 0 (and KEY = 0,
R67, R337), and its STORE is SLOT_BYTES bytes in canonical form. -/
structure Slot.Inv (limit : Limit) (sl : Slot) : Prop where
  len_fits : limit.admits sl.len = true
  free_empty : sl.valid = false → sl.key = 0 ∧ sl.len = 0 ∧ sl.count = 0
  store_wf : sl.store.wf = true
  store_fits : ∀ c ∈ sl.store, limit.admits (c.1 + 1) = true

/-- The slot that is being delivered is the one OUT_* describe (R60, R320, R330). -/
structure State.DeliveryInv (s : State) : Prop where
  in_table : s.outSlot < s.slots.length
  valid : (s.slot s.outSlot).valid = true
  key_is : (s.slot s.outSlot).key = s.outPeer
  len_is : (s.slot s.outSlot).len = s.outLen
  count_is : (s.slot s.outSlot).count = s.outCount

/-- The invariant of the block: what every reachable state satisfies. -/
structure State.Inv (s : State) : Prop where
  /-- the build parameters meet R9 -/
  build_wf : s.build.wf = true
  /-- memory is in canonical form -/
  mem_wf : s.mem.wf = true
  /-- only bytes of the RAM windows are listed -/
  mem_mapped : ∀ c ∈ s.mem, mappedAddress s.build c.1 = true
  /-- the table has PEER_SLOTS entries (R64) -/
  table_size : tableSizeOk s.build.peerSlots s.slots.length = true
  /-- every slot is as R64 says -/
  slot_inv : ∀ sl ∈ s.slots, sl.Inv s.build.slotBytes
  /-- no two valid slots hold the same KEY (R64) -/
  keys_distinct : s.slots.Pairwise fun a b => a.valid = true → b.valid = true → a.key ≠ b.key
  /-- OUT_SLOT names a slot of the table, and OUT_LEN fits a store (R60) -/
  out_fits : tableHolds s.build.peerSlots s.outSlot = true ∧ s.build.slotBytes.admits s.outLen = true
  /-- during delivery, OUT_* describe the delivering slot -/
  delivery : s.deliver = true → s.DeliveryInv
  /-- RESET_PENDING is 1 only while BUSY (R38) -/
  reset_busy : s.resetPending = true → s.engState = .busy

/-- What a command leaves when it ends with `code` and nothing else happens (spec/60_exceptions.md R402): written
out, for the statements to compare `exec` with. -/
def State.completed (s : State) (code : ErrCode) : State :=
  { s with
    errCode := code
    lastOp := s.pending.extractLsb' 0 8
    irqStatus := s.irqStatus ||| (if code = .ok then 0x01 else 0x03)
    engState := .idle }

/-- No sticky fault is recorded: the premise R405 asks of every claim about the source's behaviour. -/
def State.faultFree (s : State) : Prop := s.faults = 0

/-- `k` steps run without a model fault (R470) and end with FAULTS = 0 (R405). -/
def SafeRun (k : Nat) (s : State) : Prop :=
  ∃ t : State, Host.Core.run Sys2Proof.core k s = .next t ∧ t.faultFree

end Sys2Proof.Machine
end

