-- ==== Sys2Proof/Certificates/Slice0/Obligations.lean ====
section
/-! DEFINITION. What the model is held to: statements from the numbered rules of spec/. Each docstring names its rules.
`State.completed s code` (Safety.lean) is `s` after finish(code) and nothing else (R402); a result written as an
update of it leaves every field that is not named as it was. -/

open Sys2Proof Sys2Proof.Machine

/-! ### Encoding -/

/-- A few words of the table of R159 decode to their commands. -/
def Obligations.SampleWordsDecode : Prop :=
  decode 0x00000000 = .ok .nop ∧ decode 0x00000401 = .ok .crcTx ∧ decode 0x00000802 = .ok .xorPb ∧
  decode 0x00000104 = .ok .frameEnc ∧ decode 0x00000108 = .ok .rxDec ∧ decode 0x00000009 = .ok .release

/-- R157: decoding and encoding agree, both ways. A word decodes to a command exactly when it is that command's
word, so no two commands share a word and every other word is ILLEGAL_CMD. -/
def Obligations.DecodeAcceptsExactlyTheEncodings : Prop :=
  ∀ (w : Word) (i : Instr), decode w = .ok i ↔ encode i = w

/-- R156: the words that are refused, by their bits. -/
def Obligations.IllegalWordsAreExactlyThoseOfTheChecks : Prop :=
  ∀ w : Word, (∃ e, decode w = .error e) ↔
    (w.extractLsb' 12 20 ≠ 0 ∨ w.getLsbD 9 = true ∨ 9 < (w.extractLsb' 0 8).toNat ∨
      (w.getLsbD 8 = true ∧ (w.extractLsb' 0 8).toNat ∉ [4, 5, 8]) ∨
      (w.extractLsb' 10 2 ≠ 0 ∧ (w.extractLsb' 0 8).toNat ∉ [1, 2]) ∨
      w.extractLsb' 10 2 = 3)

/-! ### The step -/

/-- R130: when the ENGINE is BUSY and its step is next, the step decodes PENDING, runs the command as exec gives it,
and then applies a pending reset. When the step is next is the model's choice (log 3). -/
def Obligations.StepRunsThePendingCommand : Prop :=
  ∀ (s : State) (rest : List PortEvent) (i : Instr),
    (s.arrivals = [] ∧ rest = []) ∨ s.arrivals = .engine :: rest →
    s.engState = .busy → decode s.pending = .ok i →
    step s = match exec i { s with arrivals := rest } with
      | .next t => .next (if t.resetPending then t.resetBlock else t)
      | .fault f => .fault f
      | .refused r => .refused r

/-- R384 with R156: a word that is no command records ILLEGAL_CMD and LAST_OP, and changes nothing else. When the
step is next is the model's choice (log 3). -/
def Obligations.StepOnIllegalWordOnlyRecordsIt : Prop :=
  ∀ (s : State) (rest : List PortEvent) (e : DecodeError),
    (s.arrivals = [] ∧ rest = []) ∨ s.arrivals = .engine :: rest →
    s.engState = .busy → s.resetPending = false → decode s.pending = .error e →
    step s = .next { s with
      arrivals := rest
      errCode := .illegalCmd
      lastOp := s.pending.setWidth 8
      irqStatus := s.irqStatus ||| 0x03
      engState := .idle }

/-- R130: in IDLE the ENGINE has no step; a block with nothing due waits unchanged, which is the model's choice (log
3). -/
def Obligations.IdleBlockWaits : Prop :=
  ∀ s : State, s.engState = .idle →
    (s.arrivals = [] → step s = .next s) ∧
    (∀ rest, s.arrivals = .engine :: rest → step s = .next { s with arrivals := rest })

/-- R402 and R400: every command ends. It answers a next state with the engine IDLE, LAST_OP and CMD_DONE recorded,
CMD_ERR set when its code is not OK, the command word still in PENDING, and every IRQ_STATUS and FAULTS bit that was
set still set. -/
def Obligations.EveryCommandFinishes : Prop :=
  ∀ (i : Instr) (s : State), ∃ t, exec i s = .next t ∧
    t.engState = .idle ∧ t.lastOp = s.pending.extractLsb' 0 8 ∧ t.pending = s.pending ∧
    t.irqStatus.getLsbD 0 = true ∧ (t.errCode ≠ .ok → t.irqStatus.getLsbD 1 = true) ∧
    s.irqStatus &&& t.irqStatus = s.irqStatus ∧ s.faults &&& t.faults = s.faults ∧
    t.resetPending = s.resetPending

/-! ### Reset -/

/-- R67: the reset state of every build. -/
def Obligations.ResetLeavesTheSpecifiedState : Prop :=
  ∀ b : Build,
    (∀ r : Csr, (State.resetOf b).readCsr r = match r with
      | .id => 0x53474631
      | .param0 => BitVec.ofNat 32
          (b.bMax.toNat + 32 * 2 ^ 16 + if b.frameMode = .full then 2 ^ 24 else 0)
      | .param1 => match b.peerSlots with | .finite n => BitVec.ofNat 32 n | .unbounded => 0xFFFFFFFF
      | .param2 => match b.slotBytes with | .finite n => BitVec.ofNat 32 n | .unbounded => 0xFFFFFFFF
      | .segFlags => 3
      | _ => 0) ∧
    (∀ a, (State.resetOf b).mem.read a = 0) ∧
    (∀ n, b.peerSlots = .finite n → (State.resetOf b).slots.length = n) ∧
    (∀ j, ((State.resetOf b).slot j).valid = false ∧ ((State.resetOf b).slot j).key = 0 ∧
      ((State.resetOf b).slot j).count = 0 ∧ ((State.resetOf b).slot j).len = 0 ∧
      ∀ o, ((State.resetOf b).slot j).store.read o = 0) ∧
    (State.resetOf b).engState = .idle ∧ (State.resetOf b).pending = 0 ∧
    (State.resetOf b).resetPending = false ∧ (State.resetOf b).deliver = false ∧
    (State.resetOf b).irqOutput = false

/-- R385 with R451: a write of CTRL with bit 0 = 1 resets at once in IDLE, and while BUSY only marks the reset
pending; a write with bit 0 = 0 has no effect. That it keeps what the port has answered and what is due is the
model's choice (log 16). -/
def Obligations.SoftResetIsImmediateInIdleAndDeferredInBusy : Prop :=
  ∀ (s : State) (v : Word),
    hostWrite 0x010 .w32 v s = .next
      (if v.getLsbD 0 then
        match s.engState with
        | .idle => { State.resetOf s.build with
            arrivals := s.arrivals, replies := s.replies, freeReads := s.freeReads }
        | .busy => { s with resetPending := true }
      else s)

/-- R453: a reset pending when the running command finishes takes effect in that same ENGINE step, whatever the
command or the word was. When the step is next, and what a reset keeps, are the model's choice (logs 3, 16). -/
def Obligations.PendingResetEndsTheEngineStep : Prop :=
  ∀ (s : State) (rest : List PortEvent),
    (s.arrivals = [] ∧ rest = []) ∨ s.arrivals = .engine :: rest →
    s.engState = .busy → s.resetPending = true →
    step s = .next { State.resetOf s.build with
      arrivals := rest, replies := s.replies, freeReads := s.freeReads }

/-- R452: a hardware reset at any point sets the reset state. Its place among the events, and what it keeps of the
model's own fields, are the model's choice (logs 3, 16). -/
def Obligations.HardwareResetAbandonsEverything : Prop :=
  ∀ (s : State) (rest : List PortEvent), s.arrivals = .hardReset :: rest →
    step s = .next { State.resetOf s.build with
      arrivals := rest, replies := s.replies, freeReads := s.freeReads }

/-! ### NOP -/

/-- R380: NOP is the word 0 and does nothing but complete; a word with opcode 0x00 and any other bit set is
ILLEGAL_CMD. -/
def Obligations.NopOnlyCompletes : Prop :=
  decode 0x00000000 = .ok .nop ∧
  (∀ w : Word, w.extractLsb' 0 8 = 0 → w ≠ 0 → ∃ e, decode w = .error e) ∧
  ∀ s : State, exec .nop s = .next (s.completed .ok)

/-! ### The checksum -/

/-- R201: the empty string, the published check value, and a third value of spec/95_test_vectors.md 2.1. -/
def Obligations.CrcCheckValues : Prop :=
  crc32 [] = 0 ∧
  crc32 [0x31, 0x32, 0x33, 0x34, 0x35, 0x36, 0x37, 0x38, 0x39] = 0xCBF43926 ∧
  crc32 [0x48, 0x45, 0x4C, 0x4C, 0x4F] = 0xC1446436

/-- R201 and R254: two strings that differ in one byte have different checksums. -/
def Obligations.CrcDetectsEverySingleByteChange : Prop :=
  ∀ (xs ys : List Byte) (b c : Byte), b ≠ c → crc32 (xs ++ b :: ys) ≠ crc32 (xs ++ c :: ys)

/-- R202, all three buffers, each with its word: RESULT gets the checksum of the region; a region past B_MAX is
RANGE. Nothing else changes. -/
def Obligations.CrcCommandsComputeTheRegionChecksum : Prop :=
  ∀ (s : State) (w : Word) (i : Instr) (r : Ram),
    (w, i, r) ∈ [(0x00000001#32, Instr.crcRx, Ram.rxbuf), (0x00000401#32, Instr.crcTx, Ram.txbuf),
      (0x00000801#32, Instr.crcPb, Ram.pbuf)] →
    decode w = .ok i ∧
    (s.argOff.toNat + s.argLen.toNat ≤ s.build.bMax.toNat →
      exec i s = .next { s.completed .ok with
        result := crc32 (s.ramBytes r s.argOff.toNat s.argLen.toNat) }) ∧
    (s.build.bMax.toNat < s.argOff.toNat + s.argLen.toNat →
      exec i s = .next (s.completed .range))

/-- R203: after FRAME, `CRC tx` over TXBUF[4:B] finds the checksum that FRAME computed. -/
def Obligations.CrcOfAFrameIsItsSegmentChecksum : Prop :=
  ∀ s t : State, 8 < s.budget.toNat → s.budget.toNat ≤ s.build.bMax.toNat →
    s.blkLen.toNat ≤ s.budget.toNat - 8 → exec .frame s = .next t →
    ∃ u, exec .crcTx { t with argOff := 4, argLen := s.budget - 4 } = .next u ∧
      u.result = t.segCrc ∧ u.errCode = .ok

/-! ### The stream cipher -/

/-- R220: KS keeps the length, and output[i] = input[i] XOR key[i mod len(key)]. -/
def Obligations.KeystreamIsTheRepeatedKey : Prop :=
  ∀ key bs : List Byte, (keystream key bs).length = bs.length ∧
    ∀ i, i < bs.length → byteAt (keystream key bs) i = byteAt bs i ^^^ byteAt key (i % key.length)

/-- R222: KS is its own inverse; on a concatenation it continues at the phase len(A) mod KEY_LEN; a flipped bit
flips the same bit of the output and nothing else. -/
def Obligations.KeystreamLaws : Prop :=
  ∀ key xs ys : List Byte,
    keystream key (keystream key xs) = xs ∧
    keystream key (xs ++ ys) = keystream key xs ++ keystreamFrom key (xs.length % key.length) ys ∧
    ∀ (b m : Byte), keystream key (xs ++ (b ^^^ m) :: ys) =
      (keystream key (xs ++ b :: ys)).modify xs.length (· ^^^ m)

/-- R223, all three buffers, each with its word: RANGE before KEY_INVALID, else the region is exclusive-ored in
place with the key from its byte 0 on; no other byte and no other register changes. -/
def Obligations.XorCommandsApplyTheKeystreamInPlace : Prop :=
  ∀ (s : State) (w : Word) (i : Instr) (r : Ram),
    (w, i, r) ∈ [(0x00000002#32, Instr.xorRx, Ram.rxbuf), (0x00000402#32, Instr.xorTx, Ram.txbuf),
      (0x00000802#32, Instr.xorPb, Ram.pbuf)] →
    decode w = .ok i ∧
    (s.build.bMax.toNat < s.argOff.toNat + s.argLen.toNat → exec i s = .next (s.completed .range)) ∧
    (s.argOff.toNat + s.argLen.toNat ≤ s.build.bMax.toNat →
      s.keyLen.toNat = 0 ∨ 32 < s.keyLen.toNat → exec i s = .next (s.completed .keyInvalid)) ∧
    (s.argOff.toNat + s.argLen.toNat ≤ s.build.bMax.toNat →
      1 ≤ s.keyLen.toNat → s.keyLen.toNat ≤ 32 →
      ∃ t, exec i s = .next t ∧
        (∀ j, j < s.argLen.toNat → t.ram r (s.argOff.toNat + j) =
          s.ram r (s.argOff.toNat + j) ^^^ s.ram .key (j % s.keyLen.toNat)) ∧
        (∀ a, ¬ (r.base + s.argOff.toNat ≤ a ∧ a < r.base + s.argOff.toNat + s.argLen.toNat) →
          t.mem.read a = s.mem.read a) ∧
        t = { s.completed .ok with mem := t.mem })

/-- R222 for the commands: the same XOR command twice restores all of memory. -/
def Obligations.XorTwiceRestoresMemory : Prop :=
  ∀ (s t u : State) (i : Instr), i ∈ [Instr.xorRx, .xorTx, .xorPb] → s.mem.wf = true →
    exec i s = .next t → exec i t = .next u → u.mem = s.mem

/-! ### Segments -/

/-- R14 and R100: be16 and be32 put the most significant byte first, and rd_be16 and rd_be32 read it so. -/
def Obligations.WireFieldsAreBigEndian : Prop :=
  (∀ v : Half, (be16 v).map BitVec.toNat = [v.toNat / 256, v.toNat % 256]) ∧
  (∀ v : Word, (be32 v).map BitVec.toNat =
    [v.toNat / 2 ^ 24, v.toNat / 2 ^ 16 % 256, v.toNat / 2 ^ 8 % 256, v.toNat % 256]) ∧
  (∀ (bs : List Byte) (o : Nat), (rdBe16 bs o).toNat =
    (byteAt bs o).toNat * 256 + (byteAt bs (o + 1)).toNat) ∧
  (∀ (bs : List Byte) (o : Nat), (rdBe32 bs o).toNat =
    (byteAt bs o).toNat * 2 ^ 24 + (byteAt bs (o + 1)).toNat * 2 ^ 16 +
      (byteAt bs (o + 2)).toNat * 2 ^ 8 + (byteAt bs (o + 3)).toNat)

/-- R253: deser(ser(c, T, I, blk)) = (c, T, I, blk). -/
def Obligations.DeserializeInvertsSerialize : Prop :=
  ∀ g : Segment, deser (ser g) = some g

/-- R254: a framed segment verifies after its round trip; with any one byte of its serialized form changed, it does
not. -/
def Obligations.FramedSegmentVerifiesUnlessAByteIsCorrupted : Prop :=
  ∀ (total index : Half) (block : List Byte),
    (∃ g, deser (ser (framedSegment total index block)) = some g ∧ verifySegment g = true) ∧
    (∀ (n : Nat) (c : Byte), n < 8 + block.length →
      c ≠ byteAt (ser (framedSegment total index block)) n →
      ∃ g, deser ((ser (framedSegment total index block)).set n c) = some g ∧ verifySegment g = false)

/-- R248, with and without encryption, each with its word: the three errors in their order, else TXBUF[0:B] holds
the segment of the SEG registers and PBUF[0:k], zero-filled to B bytes and encrypted if ENC; TX_LEN = B; no other
byte or register changes. -/
def Obligations.SerializeWritesTheGivenSegment : Prop :=
  ∀ (s : State) (w : Word) (i : Instr) (enc : Bool),
    (w, i, enc) ∈ [(0x00000005#32, Instr.serialize, false), (0x00000105#32, Instr.serializeEnc, true)] →
    decode w = .ok i ∧
    (s.build.bMax.toNat < s.budget.toNat → exec i s = .next (s.completed .configRange)) ∧
    (s.budget.toNat ≤ s.build.bMax.toNat → s.budget.toNat < 8 + s.blkLen.toNat →
      exec i s = .next (s.completed .bufferTooSmall)) ∧
    (s.budget.toNat ≤ s.build.bMax.toNat → 8 + s.blkLen.toNat ≤ s.budget.toNat →
      enc = true → s.keyLen.toNat = 0 ∨ 32 < s.keyLen.toNat →
      exec i s = .next (s.completed .keyInvalid)) ∧
    (s.budget.toNat ≤ s.build.bMax.toNat → 8 + s.blkLen.toNat ≤ s.budget.toNat →
      (enc = true → 1 ≤ s.keyLen.toNat ∧ s.keyLen.toNat ≤ 32) →
      ∃ t, exec i s = .next t ∧
        t.ramBytes .txbuf 0 s.budget.toNat =
          (let d := be32 s.segCrc ++ be16 s.segTotal ++ be16 s.segIndex ++
            s.ramBytes .pbuf 0 s.blkLen.toNat ++
            List.replicate (s.budget.toNat - 8 - s.blkLen.toNat) 0
          if enc then keystream (s.ramBytes .key 0 s.keyLen.toNat) d else d) ∧
        (∀ a, ¬ (Ram.txbuf.base ≤ a ∧ a < Ram.txbuf.base + s.budget.toNat) →
          t.mem.read a = s.mem.read a) ∧
        t = { s.completed .ok with mem := t.mem, txLen := s.budget })

/-- R249, with its word: the two errors in their order, else the SEG registers hold the header in RXBUF[0:L],
BLK_LEN = L - 8, and SEG_FLAGS[3:2] are clear; nothing else changes. -/
def Obligations.DeserializeParsesTheReceivedHeader : Prop :=
  ∀ (s : State) (len : Nat),
    len = (match s.build.frameMode with
      | .received => min s.rxLen.toNat s.budget.toNat
      | .full => s.budget.toNat) →
    decode 0x00000006 = .ok .deserialize ∧
    (s.build.bMax.toNat < s.budget.toNat → exec .deserialize s = .next (s.completed .configRange)) ∧
    (s.budget.toNat ≤ s.build.bMax.toNat → len < 8 →
      exec .deserialize s = .next (s.completed .bufferTooSmall)) ∧
    (s.budget.toNat ≤ s.build.bMax.toNat → 8 ≤ len →
      ∃ t, exec .deserialize s = .next t ∧
        t.segCrc = s.ram .rxbuf 0 ++ s.ram .rxbuf 1 ++ s.ram .rxbuf 2 ++ s.ram .rxbuf 3 ∧
        t.segTotal = s.ram .rxbuf 4 ++ s.ram .rxbuf 5 ∧
        t.segIndex = s.ram .rxbuf 6 ++ s.ram .rxbuf 7 ∧
        t.blkLen.toNat = len - 8 ∧ t.integrityOk = false ∧ t.integrityValid = false ∧
        t = { s.completed .ok with
          segCrc := t.segCrc, segTotal := t.segTotal, segIndex := t.segIndex, blkLen := t.blkLen
          integrityOk := t.integrityOk, integrityValid := t.integrityValid })

/-- R250, with its word: RANGE when 8 + BLK_LEN exceeds B_MAX, else RESULT and INTEGRITY_OK by the recomputed
checksum, IRQ_STATUS.INTEGRITY on a mismatch, which is no error; nothing else changes. -/
def Obligations.VerifyRecomputesTheChecksum : Prop :=
  ∀ s : State,
    decode 0x00000007 = .ok .verify ∧
    (s.build.bMax.toNat < 8 + s.blkLen.toNat → exec .verify s = .next (s.completed .range)) ∧
    (8 + s.blkLen.toNat ≤ s.build.bMax.toNat →
      ∀ c, c = crc32 (be16 s.segTotal ++ be16 s.segIndex ++ s.ramBytes .rxbuf 8 s.blkLen.toNat) →
      exec .verify s = .next { s.completed .ok with
        result := c
        integrityOk := c == s.segCrc
        integrityValid := true
        irqStatus := s.irqStatus ||| (if c = s.segCrc then 0x01 else 0x09) })

/-- R252: PROG_PCT is the exact progress rounded down, and PROG_NAN and FINAL follow the SEG registers. -/
def Obligations.ProgressIsTheFloorOfThePercentage : Prop :=
  ∀ s : State,
    (match progressPercent s.segTotal s.segIndex with
      | none => s.readCsr .progPct = 0 ∧ (s.readCsr .segFlags).getLsbD 1 = true
      | some q => ((s.readCsr .progPct).toNat : ℤ) = ⌊q⌋ ∧ (s.readCsr .segFlags).getLsbD 1 = false) ∧
    ((s.readCsr .segFlags).getLsbD 0 = true ↔ s.segIndex = s.segTotal)

/-! ### The batcher -/

/-- R285, with its word: CONFIG_RANGE, CONFIG_TOO_SMALL, then CAPACITY_EXCEEDED exactly when the payload needs more
than 65535 blocks; else RESULT and SEG_TOTAL hold the least count of blocks of B - 8 bytes that holds it. -/
def Obligations.PlanCountsTheSegments : Prop :=
  ∀ s : State,
    decode 0x00000003 = .ok .plan ∧
    (s.build.bMax.toNat < s.budget.toNat → exec .plan s = .next (s.completed .configRange)) ∧
    (s.budget.toNat ≤ s.build.bMax.toNat → s.budget.toNat ≤ 8 →
      exec .plan s = .next (s.completed .configTooSmall)) ∧
    (s.budget.toNat ≤ s.build.bMax.toNat → 8 < s.budget.toNat →
      65535 * (s.budget.toNat - 8) < s.payloadLen.toNat →
      exec .plan s = .next (s.completed .capacityExceeded)) ∧
    (s.budget.toNat ≤ s.build.bMax.toNat → 8 < s.budget.toNat →
      s.payloadLen.toNat ≤ 65535 * (s.budget.toNat - 8) →
      ∃ n, n ≤ 65535 ∧ n = (s.payloadLen.toNat + (s.budget.toNat - 8) - 1) / (s.budget.toNat - 8) ∧
        s.payloadLen.toNat ≤ n * (s.budget.toNat - 8) ∧
        (∀ k, s.payloadLen.toNat ≤ k * (s.budget.toNat - 8) → n ≤ k) ∧
        exec .plan s = .next { s.completed .ok with
          result := BitVec.ofNat 32 n, segTotal := BitVec.ofNat 16 n })

/-- R286, with and without encryption, each with its word: the four errors in their order, else TXBUF[0:B] holds the
segment whose block is PBUF[0:s] zero-padded to B - 8 bytes and whose checksum is computed on the plaintext,
encrypted if ENC; SEG_CRC = RESULT = that checksum, TX_LEN = B; no other byte or register changes. -/
def Obligations.FramePacksChecksumsAndSerializes : Prop :=
  ∀ (s : State) (w : Word) (i : Instr) (enc : Bool),
    (w, i, enc) ∈ [(0x00000004#32, Instr.frame, false), (0x00000104#32, Instr.frameEnc, true)] →
    decode w = .ok i ∧
    (s.build.bMax.toNat < s.budget.toNat → exec i s = .next (s.completed .configRange)) ∧
    (s.budget.toNat ≤ s.build.bMax.toNat → s.budget.toNat ≤ 8 →
      exec i s = .next (s.completed .configTooSmall)) ∧
    (s.budget.toNat ≤ s.build.bMax.toNat → 8 < s.budget.toNat →
      s.budget.toNat - 8 < s.blkLen.toNat → exec i s = .next (s.completed .sliceTooLong)) ∧
    (s.budget.toNat ≤ s.build.bMax.toNat → 8 < s.budget.toNat → s.blkLen.toNat ≤ s.budget.toNat - 8 →
      enc = true → s.keyLen.toNat = 0 ∨ 32 < s.keyLen.toNat →
      exec i s = .next (s.completed .keyInvalid)) ∧
    (s.budget.toNat ≤ s.build.bMax.toNat → 8 < s.budget.toNat → s.blkLen.toNat ≤ s.budget.toNat - 8 →
      (enc = true → 1 ≤ s.keyLen.toNat ∧ s.keyLen.toNat ≤ 32) →
      ∀ (blk : List Byte) (c : Word),
        blk = s.ramBytes .pbuf 0 s.blkLen.toNat ++
          List.replicate (s.budget.toNat - 8 - s.blkLen.toNat) 0 →
        c = crc32 (be16 s.segTotal ++ be16 s.segIndex ++ blk) →
        ∃ t, exec i s = .next t ∧
          t.ramBytes .txbuf 0 s.budget.toNat =
            (let d := be32 c ++ be16 s.segTotal ++ be16 s.segIndex ++ blk
            if enc then keystream (s.ramBytes .key 0 s.keyLen.toNat) d else d) ∧
          (∀ a, ¬ (Ram.txbuf.base ≤ a ∧ a < Ram.txbuf.base + s.budget.toNat) →
            t.mem.read a = s.mem.read a) ∧
          t = { s.completed .ok with mem := t.mem, segCrc := c, result := c, txLen := s.budget })

/-- R280 to R283 and the laws of R289: split fails exactly as R281 and R282 say; else there are ceil(len(P) / m)
segments, numbered from 1, all with that totalCount, a block of m bytes and the checksum of their contents, and
their blocks in order are the payload followed by fewer than m zero bytes. -/
def Obligations.SplitCoversThePayload : Prop :=
  ∀ (p : List Byte) (b : Nat),
    (b ≤ 8 → split p b = .error .configTooSmall) ∧
    (8 < b → 65535 * (b - 8) < p.length → split p b = .error .capacityExceeded) ∧
    (8 < b → p.length ≤ 65535 * (b - 8) →
      ∃ (gs : List Segment) (pad : Nat), split p b = .ok gs ∧
        gs.length = (p.length + (b - 8) - 1) / (b - 8) ∧
        (∀ i, (hi : i < gs.length) → gs[i].total.toNat = gs.length ∧ gs[i].index.toNat = i + 1 ∧
          gs[i].block.length = b - 8 ∧
          gs[i].checksum = crc32 (be16 gs[i].total ++ be16 gs[i].index ++ gs[i].block)) ∧
        pad < b - 8 ∧ (gs.map Segment.block).flatten = p ++ List.replicate pad 0)

/-- R289: FRAME of slice i, with the counts the host writes (R288), puts exactly segment i of split(P, B) into
TXBUF. -/
def Obligations.FrameEmitsTheSegmentsOfSplit : Prop :=
  ∀ (s : State) (p : List Byte) (gs : List Segment) (i : Nat) (hi : i < gs.length),
    split p s.budget.toNat = .ok gs → s.budget.toNat ≤ s.build.bMax.toNat →
    s.blkLen.toNat = min (s.budget.toNat - 8) (p.length - i * (s.budget.toNat - 8)) →
    s.ramBytes .pbuf 0 s.blkLen.toNat = (p.drop (i * (s.budget.toNat - 8))).take s.blkLen.toNat →
    s.segTotal.toNat = gs.length → s.segIndex.toNat = i + 1 →
    ∃ t, exec .frame s = .next t ∧ t.ramBytes .txbuf 0 s.budget.toNat = ser gs[i] ∧
      t.segCrc = gs[i].checksum ∧ t.errCode = .ok

/-! ### The accumulator -/

/-- R322: while no two valid slots hold the same key (R64), lookup(K) is the valid slot of key K, or none. -/
def Obligations.LookupFindsTheSlotOfTheKey : Prop :=
  ∀ (slots : List Slot) (k : PeerKey),
    (slots.Pairwise fun a b => a.valid = true → b.valid = true → a.key ≠ b.key) →
    (∀ j, lookup slots k = some j ↔ ∃ hj : j < slots.length, slots[j].valid = true ∧ slots[j].key = k) ∧
    (lookup slots k = none ↔ ∀ sl ∈ slots, sl.valid = true → sl.key ≠ k)

/-- R323: in a finite table, alloc() is the lowest-numbered free slot, or none when every slot is valid. -/
def Obligations.AllocFindsTheLowestFreeSlot : Prop :=
  ∀ (n : Nat) (slots : List Slot),
    (∀ j, alloc (.finite n) slots = some j ↔
      ∃ hj : j < slots.length, slots[j].valid = false ∧
        ∀ k, (hk : k < j) → (slots[k]'(hk.trans hj)).valid = true) ∧
    (alloc (.finite n) slots = none ↔ ∀ sl ∈ slots, sl.valid = true)

/-- R333, and the checks of R326 before a datagram is consumed: DELIVER_PENDING, CONFIG_RANGE, KEY_INVALID in that
order, each with no other effect. -/
def Obligations.RxIsRefusedBeforeConsuming : Prop :=
  ∀ (s : State) (i : Instr) (enc : Bool), (i, enc) ∈ [(Instr.rx, false), (Instr.rxDec, true)] →
    (s.deliver = true → exec i s = .next (s.completed .deliverPending)) ∧
    (s.deliver = false → s.build.bMax.toNat < s.budget.toNat →
      exec i s = .next (s.completed .configRange)) ∧
    (s.deliver = false → s.budget.toNat ≤ s.build.bMax.toNat → enc = true →
      s.keyLen.toNat = 0 ∨ 32 < s.keyLen.toNat → exec i s = .next (s.completed .keyInvalid))

/-- R326 and R331: a consumed datagram of fewer than 8 bytes counts in CNT_RX and CNT_SHORT, clears RX_INFO, ends
with BUFFER_TOO_SMALL and changes nothing else. -/
def Obligations.RxDiscardsShortDatagrams : Prop :=
  ∀ (s : State) (i : Instr) (enc : Bool), (i, enc) ∈ [(Instr.rx, false), (Instr.rxDec, true)] →
    s.deliver = false → s.budget.toNat ≤ s.build.bMax.toNat →
    (enc = true → 1 ≤ s.keyLen.toNat ∧ s.keyLen.toNat ≤ 32) →
    (match s.build.frameMode with
      | .received => min s.rxLen.toNat s.budget.toNat
      | .full => s.budget.toNat) < 8 →
    exec i s = .next { s.completed .bufferTooSmall with
      cntRx := s.cntRx + 1, cntShort := s.cntShort + 1
      rxInfo := { slot := 0, appended := false, isNew := false } }

/-- R334: a datagram of a new peer with every slot taken is discarded with the sticky fault PEER_TABLE_FULL; nothing
but the counters, RX_INFO and FAULTS changes. -/
def Obligations.RxDiscardsWhenTheTableIsFull : Prop :=
  ∀ (s : State) (i : Instr) (enc : Bool), (i, enc) ∈ [(Instr.rx, false), (Instr.rxDec, true)] →
    s.deliver = false → s.budget.toNat ≤ s.build.bMax.toNat →
    (enc = true → 1 ≤ s.keyLen.toNat ∧ s.keyLen.toNat ≤ 32) → 8 ≤ s.rxExtent →
    (∀ sl ∈ s.slots, sl.valid = true ∧ sl.key ≠ s.peerKey) → s.build.peerSlots ≠ .unbounded →
    exec i s = .next { s.completed .peerTableFull with
      cntRx := s.cntRx + 1, cntDrop := s.cntDrop + 1
      rxInfo := { slot := 0, appended := false, isNew := false }
      faults := s.faults ||| 0x1, irqStatus := s.irqStatus ||| 0x13 }

/-- R335: a block that does not fit its slot's store is discarded with the sticky fault ACC_OVERFLOW, a final
segment included; the slot, and a slot that would have been new, stay as they were. -/
def Obligations.RxDiscardsWhenTheSlotOverflows : Prop :=
  ∀ (s : State) (i : Instr) (enc : Bool) (j base bytes : Nat),
    (i, enc) ∈ [(Instr.rx, false), (Instr.rxDec, true)] →
    s.deliver = false → s.budget.toNat ≤ s.build.bMax.toNat →
    (enc = true → 1 ≤ s.keyLen.toNat ∧ s.keyLen.toNat ≤ 32) → 8 ≤ s.rxExtent →
    (lookup s.slots s.peerKey = some j ∧ base = (s.slot j).len) ∨
      (lookup s.slots s.peerKey = none ∧ alloc s.build.peerSlots s.slots = some j ∧ base = 0) →
    s.build.slotBytes = .finite bytes → bytes < base + (s.rxExtent - 8) →
    exec i s = .next { s.completed .accOverflow with
      cntRx := s.cntRx + 1, cntDrop := s.cntDrop + 1
      rxInfo := { slot := 0, appended := false, isNew := false }
      faults := s.faults ||| 0x2, irqStatus := s.irqStatus ||| 0x13 }

/-- R326 to R330: a consumed datagram that fits is appended to its peer's slot, new or not; the SEG registers and
RESULT describe it; the integrity check is advisory; and it completes the transfer exactly when I = T. RXBUF and
every other byte of RAM, every other slot, and every register not named stay as they were. OUT_SLOT and OUT_LEN are
held exactly, the model's choice (log 11). -/
def Obligations.RxAppendsAndCompletes : Prop :=
  ∀ (s : State) (i : Instr) (enc isNew : Bool) (j base : Nat) (count0 : Word) (p : List Byte),
    (i, enc) ∈ [(Instr.rx, false), (Instr.rxDec, true)] →
    s.deliver = false → s.budget.toNat ≤ s.build.bMax.toNat →
    (enc = true → 1 ≤ s.keyLen.toNat ∧ s.keyLen.toNat ≤ 32) → 8 ≤ s.rxExtent →
    (isNew = false ∧ lookup s.slots s.peerKey = some j ∧
        base = (s.slot j).len ∧ count0 = (s.slot j).count) ∨
      (isNew = true ∧ lookup s.slots s.peerKey = none ∧ alloc s.build.peerSlots s.slots = some j ∧
        base = 0 ∧ count0 = 0) →
    s.build.slotBytes.admits (base + (s.rxExtent - 8)) = true →
    p = (if enc then keystream (s.ramBytes .key 0 s.keyLen.toNat) (s.ramBytes .rxbuf 0 s.rxExtent)
      else s.ramBytes .rxbuf 0 s.rxExtent) →
    ∃ t, exec i s = .next t ∧
      t.segCrc = rdBe32 p 0 ∧ t.segTotal = rdBe16 p 4 ∧ t.segIndex = rdBe16 p 6 ∧
      t.blkLen.toNat = s.rxExtent - 8 ∧
      t.result = crc32 (be16 t.segTotal ++ be16 t.segIndex ++ p.drop 8) ∧
      t.integrityOk = (t.result == t.segCrc) ∧ t.integrityValid = true ∧
      (t.slot j).valid = true ∧ (t.slot j).key = s.peerKey ∧
      (t.slot j).len = base + (s.rxExtent - 8) ∧ (t.slot j).count = count0 + 1 ∧
      (∀ o, o < s.rxExtent - 8 → (t.slot j).store.read (base + o) = byteAt p (8 + o)) ∧
      (∀ o, ¬ (base ≤ o ∧ o < base + (s.rxExtent - 8)) →
        (t.slot j).store.read o = (s.slot j).store.read o) ∧
      (∀ k, k ≠ j → t.slot k = s.slot k) ∧ s.slots.length ≤ t.slots.length ∧
      t.rxInfo = { slot := BitVec.ofNat 8 j, appended := true, isNew := isNew } ∧
      t.cntBadCrc = (if t.result = t.segCrc then s.cntBadCrc else s.cntBadCrc + 1) ∧
      t.irqStatus = s.irqStatus ||| 0x01 ||| (if t.result = t.segCrc then 0 else 0x08) |||
        (if t.segIndex = t.segTotal then 0x04 else 0) ∧
      (if t.segIndex = t.segTotal then
        t.deliver = true ∧ t.outSlot = j ∧ t.outLen = base + (s.rxExtent - 8) ∧
          t.outCount = count0 + 1 ∧ t.outPeer = s.peerKey ∧ t.cntDone = s.cntDone + 1
      else
        t.deliver = false ∧ t.outSlot = s.outSlot ∧ t.outLen = s.outLen ∧ t.outCount = s.outCount ∧
          t.outPeer = s.outPeer ∧ t.cntDone = s.cntDone) ∧
      t = { s.completed .ok with
        cntRx := s.cntRx + 1
        segCrc := t.segCrc, segTotal := t.segTotal, segIndex := t.segIndex, blkLen := t.blkLen
        result := t.result, integrityOk := t.integrityOk, integrityValid := t.integrityValid
        slots := t.slots, rxInfo := t.rxInfo, cntBadCrc := t.cntBadCrc, irqStatus := t.irqStatus
        deliver := t.deliver, outSlot := t.outSlot, outLen := t.outLen, outCount := t.outCount
        outPeer := t.outPeer, cntDone := t.cntDone }

/-- R337, with its word: RELEASE outside delivery is NOT_DELIVERING; in delivery it frees exactly the delivered
slot, keeps its STORE bytes and OUT_*, leaves DELIVER, and OUTWIN reads 0 from then on. -/
def Obligations.ReleaseFreesTheDeliveredSlot : Prop :=
  ∀ s : State,
    decode 0x00000009 = .ok .release ∧
    (s.deliver = false → exec .release s = .next (s.completed .notDelivering)) ∧
    (s.deliver = true →
      ∃ t, exec .release s = .next t ∧ t.deliver = false ∧ t.slots.length = s.slots.length ∧
        (t.slot s.outSlot).valid = false ∧ (t.slot s.outSlot).key = 0 ∧
        (t.slot s.outSlot).len = 0 ∧ (t.slot s.outSlot).count = 0 ∧
        (t.slot s.outSlot).store = (s.slot s.outSlot).store ∧
        (∀ k, k ≠ s.outSlot → t.slot k = s.slot k) ∧ (∀ o, t.outByte o = 0) ∧
        t = { s.completed .ok with slots := t.slots, deliver := false })

/-- R338: no command but RELEASE removes a transfer: every valid slot stays valid, for the same peer, and its bytes
stay a prefix of what it holds. RELEASE removes only the slot being delivered. -/
def Obligations.OnlyReleaseRemovesATransfer : Prop :=
  ∀ (i : Instr) (s t : State) (j : Nat), exec i s = .next t → (s.slot j).valid = true →
    (t.slot j).valid = true ∧ (t.slot j).key = (s.slot j).key ∧ (s.slot j).len ≤ (t.slot j).len ∧
      (∀ o, o < (s.slot j).len → (t.slot j).store.read o = (s.slot j).store.read o) ∨
    (i = .release ∧ s.deliver = true ∧ s.outSlot = j)

/-- R254, R287 and R325 together: a datagram that FRAME.enc wrote, received by RX.dec under the same key, deciphers
to the framed segment, passes the integrity check, and appends the padded block. -/
def Obligations.EncryptedFrameIsReceivedIntact : Prop :=
  ∀ (s t u v : State) (j : Nat),
    8 < s.budget.toNat → s.budget.toNat ≤ s.build.bMax.toNat → s.blkLen.toNat ≤ s.budget.toNat - 8 →
    1 ≤ s.keyLen.toNat → s.keyLen.toNat ≤ 32 → exec .frameEnc s = .next t →
    u.ramBytes .rxbuf 0 s.budget.toNat = t.ramBytes .txbuf 0 s.budget.toNat →
    u.keyLen = s.keyLen → u.ramBytes .key 0 s.keyLen.toNat = s.ramBytes .key 0 s.keyLen.toNat →
    u.budget = s.budget → u.build = s.build → u.rxExtent = s.budget.toNat → u.deliver = false →
    lookup u.slots u.peerKey = some j →
    u.build.slotBytes.admits ((u.slot j).len + (s.budget.toNat - 8)) = true →
    exec .rxDec u = .next v →
    v.segCrc = t.segCrc ∧ v.segTotal = s.segTotal ∧ v.segIndex = s.segIndex ∧ v.integrityOk = true ∧
      v.errCode = .ok ∧
      (v.slot j).store.readBytes (u.slot j).len (s.budget.toNat - 8) =
        s.ramBytes .pbuf 0 s.blkLen.toNat ++ List.replicate (s.budget.toNat - 8 - s.blkLen.toNat) 0

/-! ### The host port -/

/-- R106, R108, R109 and R34: what an address and a width reach, with the bases and sizes of R106 and the offsets of
R34. Everything else is a bus error. -/
def Obligations.AddressMapIsTheSpecified : Prop :=
  ∀ (b : Build) (addr : Word) (w : AccessWidth) (n : Nat), (w, n) ∈ [(AccessWidth.w8, 1), (.w16, 2), (.w32, 4)] →
    (∀ r o, locate b addr w = some (.ram r o) ↔
      ∃ base size, (r, base, size) ∈ [(Ram.key, 0x1000, 32), (.rxbuf, 0x10000, b.bMax.toNat),
          (.txbuf, 0x20000, b.bMax.toNat), (.pbuf, 0x30000, b.bMax.toNat)] ∧
        addr.toNat % n = 0 ∧ addr.toNat = base + o ∧ o + n ≤ size) ∧
    (∀ o, locate b addr w = some (.outwin o) ↔
      addr.toNat % n = 0 ∧ addr.toNat = 0x80000000 + o ∧ ∀ m, b.slotBytes = .finite m → o + n ≤ m) ∧
    (∀ r, locate b addr w = some (.csr r) ↔ w = .w32 ∧ (addr.toNat, r) ∈
      [(0x000, Csr.id), (0x004, .param0), (0x008, .param1), (0x00C, .param2), (0x010, .ctrl), (0x014, .status),
        (0x018, .cmd), (0x01C, .argOff), (0x020, .argLen), (0x024, .result), (0x028, .faults),
        (0x02C, .irqStatus), (0x030, .irqEnable), (0x040, .budget), (0x044, .keyLen), (0x048, .payloadLen),
        (0x050, .segCrc), (0x054, .segTotal), (0x058, .segIndex), (0x05C, .blkLen), (0x060, .segFlags),
        (0x064, .progPct), (0x068, .rxLen), (0x06C, .txLen), (0x070, .peerKey0), (0x074, .peerKey1),
        (0x078, .peerKey2), (0x07C, .peerKey3), (0x080, .rxInfo), (0x090, .outLen), (0x094, .outCount),
        (0x098, .outSlot), (0x0A0, .outPeer0), (0x0A4, .outPeer1), (0x0A8, .outPeer2), (0x0AC, .outPeer3),
        (0x0B0, .cntRx), (0x0B4, .cntShort), (0x0B8, .cntDrop), (0x0BC, .cntBadCrc), (0x0C0, .cntDone),
        (0x0D0, .slotSel), (0x0D4, .slotInfo), (0x0D8, .slotCount), (0x0DC, .slotLen), (0x0E0, .slotKey0),
        (0x0E4, .slotKey1), (0x0E8, .slotKey2), (0x0EC, .slotKey3)])

/-- R102, R104, R111 and R113: a window write stores byte v[8i+7:8i] at address a + i and nothing else, and the read
back returns the bytes written, in IDLE. Where the answer is recorded is the model's choice (log 4). -/
def Obligations.WindowReadsBackWhatWasWritten : Prop :=
  ∀ (s : State) (addr v : Word) (w : AccessWidth) (r : Ram) (o : Nat),
    s.engState = .idle → locate s.build addr w = some (.ram r o) →
    ∃ t, hostWrite addr w v s = .next t ∧
      (∀ i, i < w.bytes → t.ram r (o + i) = v.extractLsb' (8 * i) 8) ∧
      (∀ a, ¬ (r.base + o ≤ a ∧ a < r.base + o + w.bytes) → t.mem.read a = s.mem.read a) ∧
      t = { s with mem := t.mem } ∧
      hostRead addr w t = { t with replies := BitVec.ofNat 32 (v.toNat % 2 ^ (8 * w.bytes)) :: t.replies }

/-- R115: a bus error reads 0, writes nothing, raises FAULTS.BUS_ERR and IRQ_STATUS.FAULT, and the access still
completes; a write of OUTWIN is one, unless RX or RELEASE is running, which makes it a hazard (R462). Where the answer
is recorded is the model's choice (log 4), and that an access of no location is never a hazard is too (log 7). -/
def Obligations.BusErrorsAreRecordedAndHarmless : Prop :=
  ∀ (s : State) (addr v : Word) (w : AccessWidth),
    (locate s.build addr w = none →
      hostRead addr w s = { s with
        faults := s.faults ||| 0x8, irqStatus := s.irqStatus ||| 0x10, replies := 0 :: s.replies }) ∧
    (locate s.build addr w = none ∨
        ((∃ o, locate s.build addr w = some (.outwin o)) ∧
          (s.engState = .busy → ∀ i ∈ [Instr.rx, .rxDec, .release], decode s.pending ≠ .ok i)) →
      hostWrite addr w v s = .next { s with
        faults := s.faults ||| 0x8, irqStatus := s.irqStatus ||| 0x10 })

/-- R114 and R102: an OUTWIN read of 1, 2 or 4 bytes, unless RX or RELEASE is running (R461), answers on each byte lane
the delivering slot's byte below OUT_LEN, and 0 otherwise. Where the answer is recorded, and that the lanes above a
narrow read are 0, are the model's choices (log 4). -/
def Obligations.OutwinShowsTheDeliveredPayload : Prop :=
  ∀ (s : State) (addr : Word) (w : AccessWidth) (n o : Nat),
    (w, n) ∈ [(AccessWidth.w8, 1), (.w16, 2), (.w32, 4)] →
    (s.engState = .busy → ∀ i ∈ [Instr.rx, .rxDec, .release], decode s.pending ≠ .ok i) →
    locate s.build addr w = some (.outwin o) →
    ∃ a : Word, hostRead addr w s = { s with replies := a :: s.replies } ∧
      ∀ k, k < 4 → a.extractLsb' (8 * k) 8 =
        if k < n ∧ s.deliver = true ∧ o + k < s.outLen then (s.slot s.outSlot).store.read (o + k) else 0

/-- R35 and R36: a read-write register of w bits stores and reads back v mod 2^w, and its write changes nothing else; a
write of a read-only register has no effect; a write of FAULTS or IRQ_STATUS clears exactly the bits written as 1, and
nothing else. -/
def Obligations.RegistersStoreTheirFields : Prop :=
  ∀ (s : State) (v : Word) (r : Csr),
    (∀ w, (r, w) ∈ [(Csr.argOff, 16), (.argLen, 16), (.irqEnable, 5), (.budget, 16), (.keyLen, 8),
        (.payloadLen, 32), (.segCrc, 32), (.segTotal, 16), (.segIndex, 16), (.blkLen, 16), (.rxLen, 16),
        (.peerKey0, 32), (.peerKey1, 32), (.peerKey2, 32), (.peerKey3, 32), (.slotSel, 8)] →
      (s.writeCsr v r).readCsr r = BitVec.ofNat 32 (v.toNat % 2 ^ w)) ∧
    s.writeCsr v .argOff = { s with argOff := BitVec.ofNat 16 v.toNat } ∧
    s.writeCsr v .argLen = { s with argLen := BitVec.ofNat 16 v.toNat } ∧
    s.writeCsr v .irqEnable = { s with irqEnable := BitVec.ofNat 5 v.toNat } ∧
    s.writeCsr v .budget = { s with budget := BitVec.ofNat 16 v.toNat } ∧
    s.writeCsr v .keyLen = { s with keyLen := BitVec.ofNat 8 v.toNat } ∧
    s.writeCsr v .payloadLen = { s with payloadLen := v } ∧
    s.writeCsr v .segCrc = { s with segCrc := v } ∧
    s.writeCsr v .segTotal = { s with segTotal := BitVec.ofNat 16 v.toNat } ∧
    s.writeCsr v .segIndex = { s with segIndex := BitVec.ofNat 16 v.toNat } ∧
    s.writeCsr v .blkLen = { s with blkLen := BitVec.ofNat 16 v.toNat } ∧
    s.writeCsr v .rxLen = { s with rxLen := BitVec.ofNat 16 v.toNat } ∧
    s.writeCsr v .peerKey0 = { s with peerKey0 := v } ∧
    s.writeCsr v .peerKey1 = { s with peerKey1 := v } ∧
    s.writeCsr v .peerKey2 = { s with peerKey2 := v } ∧
    s.writeCsr v .peerKey3 = { s with peerKey3 := v } ∧
    s.writeCsr v .slotSel = { s with slotSel := BitVec.ofNat 8 v.toNat } ∧
    (r ∈ [Csr.id, .param0, .param1, .param2, .status, .result, .segFlags, .progPct, .txLen, .rxInfo,
        .outLen, .outCount, .outSlot, .outPeer0, .outPeer1, .outPeer2, .outPeer3, .cntRx, .cntShort,
        .cntDrop, .cntBadCrc, .cntDone, .slotInfo, .slotCount, .slotLen, .slotKey0, .slotKey1,
        .slotKey2, .slotKey3] → s.writeCsr v r = s) ∧
    (∀ i, i < 4 → (s.writeCsr v .faults).faults.getLsbD i = (s.faults.getLsbD i && !v.getLsbD i)) ∧
    (∀ i, i < 5 → (s.writeCsr v .irqStatus).irqStatus.getLsbD i = (s.irqStatus.getLsbD i && !v.getLsbD i)) ∧
    s.writeCsr v .faults = { s with faults := (s.writeCsr v .faults).faults } ∧
    s.writeCsr v .irqStatus = { s with irqStatus := (s.writeCsr v .irqStatus).irqStatus } ∧
    (s.readCsr .faults).toNat = s.faults.toNat ∧ (s.readCsr .irqStatus).toNat = s.irqStatus.toNat

/-- R110, R112 and R117 at the port: in IDLE a 32-bit read at a register's offset answers the register and changes
nothing, and a write there is that register's write. Where the answer is recorded is the model's choice (log 4). -/
def Obligations.IdlePortReadsAndWritesRegisters : Prop :=
  ∀ (s : State) (addr v : Word) (r : Csr),
    s.engState = .idle → locate s.build addr .w32 = some (.csr r) →
    hostRead addr .w32 s = { s with replies := s.readCsr r :: s.replies } ∧
    hostWrite addr .w32 v s = .next (s.writeCsr v r)

/-- R38, R40, R41, R43, R54, R57, R59, R60 and R61: what the read-only registers, CTRL and CMD show. That OUT_LEN and
OUT_SLOT show the low bits of exact numbers is the model's choice (log 11). -/
def Obligations.ReadOnlyRegistersShowTheirState : Prop :=
  ∀ s : State,
    s.readCsr .id = 0x53474631 ∧
    (s.readCsr .ctrl).toNat = (if s.resetPending then 1 else 0) ∧
    s.readCsr .cmd = s.pending ∧
    s.readCsr .result = s.result ∧
    (s.readCsr .segFlags).toNat =
      (if s.segTotal = s.segIndex then 1 else 0) + (if s.segTotal = 0 then 2 else 0) +
      (if s.integrityOk then 4 else 0) + (if s.integrityValid then 8 else 0) ∧
    (s.readCsr .txLen).toNat = s.txLen.toNat ∧
    (s.readCsr .rxInfo).toNat =
      s.rxInfo.slot.toNat + (if s.rxInfo.appended then 256 else 0) + (if s.rxInfo.isNew then 512 else 0) ∧
    (s.readCsr .outLen).toNat = s.outLen % 2 ^ 32 ∧
    s.readCsr .outCount = s.outCount ∧
    (s.readCsr .outSlot).toNat = s.outSlot % 256 ∧
    s.readCsr .outPeer3 ++ s.readCsr .outPeer2 ++ s.readCsr .outPeer1 ++ s.readCsr .outPeer0 = s.outPeer ∧
    s.readCsr .cntRx = s.cntRx ∧ s.readCsr .cntShort = s.cntShort ∧ s.readCsr .cntDrop = s.cntDrop ∧
    s.readCsr .cntBadCrc = s.cntBadCrc ∧ s.readCsr .cntDone = s.cntDone

/-- R40, R381 and R382: a write of CMD is accepted in IDLE; while BUSY it is dropped with the fault CMD_OVERRUN. -/
def Obligations.CmdWriteIssuesOrOverruns : Prop :=
  ∀ (s : State) (v : Word), hostWrite 0x018 .w32 v s = .next (match s.engState with
    | .idle => { s with pending := v, engState := .busy }
    | .busy => { s with faults := s.faults ||| 0x4, irqStatus := s.irqStatus ||| 0x10 })

/-- R409 and R39: the interrupt output is the OR of the enabled pending bits, STATUS.IRQ reads it, and STATUS shows
the other flags where R39 puts them, ERR_CODE by the numbers of R401. -/
def Obligations.StatusShowsTheFlags : Prop :=
  ∀ s : State,
    (s.irqOutput = true ↔ ∃ i, i < 5 ∧ s.irqStatus.getLsbD i = true ∧ s.irqEnable.getLsbD i = true) ∧
    (s.readCsr .status).getLsbD 4 = s.irqOutput ∧
    ((s.readCsr .status).getLsbD 0 = true ↔ s.engState = .busy) ∧
    (s.readCsr .status).getLsbD 1 = s.deliver ∧
    ((s.readCsr .status).getLsbD 2 = true ↔ s.errCode ≠ .ok) ∧
    ((s.readCsr .status).getLsbD 3 = true ↔ s.faults ≠ 0) ∧
    (s.readCsr .status).extractLsb' 5 3 = 0 ∧
    (∀ c n, (c, n) ∈ [(ErrCode.ok, 0x00#8), (.configTooSmall, 0x01#8), (.capacityExceeded, 0x02#8),
        (.bufferTooSmall, 0x03#8), (.configRange, 0x04#8), (.keyInvalid, 0x05#8), (.sliceTooLong, 0x06#8),
        (.range, 0x07#8), (.illegalCmd, 0x08#8), (.deliverPending, 0x09#8), (.notDelivering, 0x0A#8),
        (.peerTableFull, 0x0B#8), (.accOverflow, 0x0C#8)] →
      s.errCode = c → (s.readCsr .status).extractLsb' 8 8 = n) ∧
    (s.readCsr .status).extractLsb' 16 8 = s.lastOp ∧ (s.readCsr .status).extractLsb' 24 8 = 0

/-- R407: a fault bit is cleared only by a host write of 1 to it in FAULTS, or by reset (the hardware reset, a soft
reset in IDLE, or one pending at the end of an ENGINE step). The list of events is the model's choice (log 3). -/
def Obligations.FaultBitsAreSticky : Prop :=
  ∀ (s t : State) (k : Nat), step s = .next t → s.faults.getLsbD k = true → t.faults.getLsbD k = false →
    (∃ v rest, s.arrivals = .write 0x028 .w32 v :: rest ∧ v.getLsbD k = true) ∨
    (∃ rest, s.arrivals = .hardReset :: rest) ∨
    (∃ v rest, s.arrivals = .write 0x010 .w32 v :: rest ∧ v.getLsbD 0 = true ∧ s.engState = .idle) ∨
    ((s.arrivals = [] ∨ ∃ rest, s.arrivals = .engine :: rest) ∧ s.engState = .busy ∧
      s.resetPending = true)

/-- R462 for the three running XOR commands, at every width: a host write that overlaps KEY[0:KEY_LEN] or the region, or
goes to one of the operand registers, is a model fault, which ends the run (log 6); a write of other bytes of the RAMs
is performed. The regions are computed from the operand registers at the access (log 10). -/
def Obligations.WritesIntoARunningXorAreHazards : Prop :=
  ∀ (s : State) (addr v : Word) (w : AccessWidth) (n : Nat) (i : Instr) (r : Ram),
    (w, n) ∈ [(AccessWidth.w8, 1), (.w16, 2), (.w32, 4)] →
    (i, r) ∈ [(Instr.xorRx, Ram.rxbuf), (.xorTx, .txbuf), (.xorPb, .pbuf)] →
    s.engState = .busy → decode s.pending = .ok i →
    (∀ o, locate s.build addr w = some (.ram r o) →
      hostWrite addr w v s =
        if 0 < s.argLen.toNat ∧ s.argOff.toNat < o + n ∧ o < s.argOff.toNat + s.argLen.toNat then
          .fault .hostHazard
        else .next (s.writeRam r o ((List.range n).map fun k => v.extractLsb' (8 * k) 8))) ∧
    (∀ o, locate s.build addr w = some (.ram .key o) →
      hostWrite addr w v s =
        if o < s.keyLen.toNat then .fault .hostHazard
        else .next (s.writeRam .key o ((List.range n).map fun k => v.extractLsb' (8 * k) 8))) ∧
    (∀ q o, q ≠ r → q ≠ .key → locate s.build addr w = some (.ram q o) →
      hostWrite addr w v s = .next (s.writeRam q o ((List.range n).map fun k => v.extractLsb' (8 * k) 8))) ∧
    (∀ q, q ∈ [Csr.argOff, .argLen, .keyLen] → locate s.build addr w = some (.csr q) →
      hostWrite addr w v s = .fault .hostHazard)

/-- R461 for a running FRAME or FRAME.enc, at every width: a read of SEG_CRC, RESULT or TX_LEN, and every byte lane of a
read of TXBUF[0:B], answers a free value, whatever that value is (log 5); the other bytes of TXBUF answer their own.
Where the answer is recorded, and the zero lanes above a narrow read (log 4), and that B is BUDGET at the access (log
10), are the model's choices. -/
def Obligations.ReadsOfARunningFramesOutputAreFree : Prop :=
  ∀ (s : State) (addr : Word) (w : AccessWidth) (n : Nat) (i : Instr),
    (w, n) ∈ [(AccessWidth.w8, 1), (.w16, 2), (.w32, 4)] → i ∈ [Instr.frame, .frameEnc] →
    s.engState = .busy → decode s.pending = .ok i →
    (∀ o, locate s.build addr w = some (.ram .txbuf o) →
      ∃ a : Word,
        hostRead addr w s = { s with
          replies := a :: s.replies
          freeReads := if o < s.budget.toNat then s.freeReads + 1 else s.freeReads } ∧
        ∀ k, k < 4 → a.extractLsb' (8 * k) 8 =
          if k < n then
            if o + k < s.budget.toNat then (Config.freeRead s.freeReads).extractLsb' (8 * k) 8
            else s.ram .txbuf (o + k)
          else 0) ∧
    (∀ r, r ∈ [Csr.segCrc, .result, .txLen] → locate s.build addr w = some (.csr r) →
      hostRead addr w s = { s with
        replies := Config.freeRead s.freeReads :: s.replies, freeReads := s.freeReads + 1 })

/-- The table of R460: for each command, the registers and the RAM ranges (RAM, offset, length) that it reads, those that
it writes, and whether it writes OUTWIN. That STATUS.DELIVER of RX and RELEASE is left out is the model's choice (log
21); the ranges come from the operand registers at the access (log 10). -/
def Obligations.FootprintsAreTheRowsOfTheTable : Prop :=
  ∀ s : State,
    let hasRow (i : Instr) (readRegs : List Csr) (readBytes : List RamRange)
        (writeRegs : List Csr) (writeBytes : List RamRange) (outwin : Bool) : Prop :=
      (∀ r, r ∈ (instrFootprint s i).readCsrs ↔ r ∈ readRegs) ∧
      (∀ g, g ∈ (instrFootprint s i).readRams ↔ g ∈ readBytes) ∧
      (∀ r, r ∈ (instrFootprint s i).writeCsrs ↔ r ∈ writeRegs) ∧
      (∀ g, g ∈ (instrFootprint s i).writeRams ↔ g ∈ writeBytes) ∧
      (instrFootprint s i).writesOutwin = outwin
    let region (r : Ram) : RamRange := ⟨r, s.argOff.toNat, s.argLen.toNat⟩
    let key : RamRange := ⟨.key, 0, s.keyLen.toNat⟩
    let slice : RamRange := ⟨.pbuf, 0, s.blkLen.toNat⟩
    let tx : RamRange := ⟨.txbuf, 0, s.budget.toNat⟩
    let rx : RamRange := ⟨.rxbuf, 0, s.budget.toNat⟩
    let block : RamRange := ⟨.rxbuf, 8, s.blkLen.toNat⟩
    let slotRegs : List Csr := [.slotInfo, .slotCount, .slotLen, .slotKey0, .slotKey1, .slotKey2, .slotKey3]
    let rxWrites : List Csr := [.segCrc, .segTotal, .segIndex, .blkLen, .segFlags, .progPct, .result, .rxInfo,
      .outLen, .outCount, .outSlot, .outPeer0, .outPeer1, .outPeer2, .outPeer3,
      .cntRx, .cntShort, .cntDrop, .cntBadCrc, .cntDone, .faults,
      .slotInfo, .slotCount, .slotLen, .slotKey0, .slotKey1, .slotKey2, .slotKey3]
    hasRow .nop [] [] [] [] false ∧
    hasRow .crcRx [.argOff, .argLen] [region .rxbuf] [.result] [] false ∧
    hasRow .crcTx [.argOff, .argLen] [region .txbuf] [.result] [] false ∧
    hasRow .crcPb [.argOff, .argLen] [region .pbuf] [.result] [] false ∧
    hasRow .xorRx [.argOff, .argLen, .keyLen] [key, region .rxbuf] [] [region .rxbuf] false ∧
    hasRow .xorTx [.argOff, .argLen, .keyLen] [key, region .txbuf] [] [region .txbuf] false ∧
    hasRow .xorPb [.argOff, .argLen, .keyLen] [key, region .pbuf] [] [region .pbuf] false ∧
    hasRow .plan [.budget, .payloadLen] [] [.result, .segTotal, .segFlags, .progPct] [] false ∧
    hasRow .frame [.budget, .segTotal, .segIndex, .blkLen] [slice] [.segCrc, .result, .txLen] [tx] false ∧
    hasRow .frameEnc [.budget, .segTotal, .segIndex, .blkLen, .keyLen] [slice, key]
      [.segCrc, .result, .txLen] [tx] false ∧
    hasRow .serialize [.budget, .segCrc, .segTotal, .segIndex, .blkLen] [slice] [.txLen] [tx] false ∧
    hasRow .serializeEnc [.budget, .segCrc, .segTotal, .segIndex, .blkLen, .keyLen] [slice, key]
      [.txLen] [tx] false ∧
    hasRow .deserialize [.budget, .rxLen] [rx]
      [.segCrc, .segTotal, .segIndex, .blkLen, .segFlags, .progPct] [] false ∧
    hasRow .verify [.segCrc, .segTotal, .segIndex, .blkLen] [block] [.result, .segFlags] [] false ∧
    hasRow .rx [.budget, .rxLen, .peerKey0, .peerKey1, .peerKey2, .peerKey3] [rx] rxWrites [] true ∧
    hasRow .rxDec [.budget, .rxLen, .peerKey0, .peerKey1, .peerKey2, .peerKey3, .keyLen] [rx, key]
      rxWrites [] true ∧
    hasRow .release [.outSlot] [] slotRegs [] true

/-- R462 for every running command, over its row of R460 (FootprintsAreTheRowsOfTheTable): a host write that reaches a
register or a RAM byte of the read set or the write set, or OUTWIN while RX or RELEASE runs, is a model fault, which
ends the run (log 6), a read-only register included (log 8); CMD, FAULTS, IRQ_STATUS, CTRL and IRQ_ENABLE are the
exceptions; every other write is performed. That a write of STATUS is never a hazard is the model's choice (log 21).
Footprints use the operand registers at the access (log 10). -/
def Obligations.WritesIntoAFootprintAreHazards : Prop :=
  ∀ (s : State) (addr v : Word) (w : AccessWidth) (n : Nat) (i : Instr),
    (w, n) ∈ [(AccessWidth.w8, 1), (.w16, 2), (.w32, 4)] →
    s.engState = .busy → decode s.pending = .ok i →
    (∀ r, locate s.build addr w = some (.csr r) →
      hostWrite addr w v s =
        if (r ∈ (instrFootprint s i).readCsrs ∨ r ∈ (instrFootprint s i).writeCsrs) ∧
            r ∉ [Csr.cmd, .faults, .irqStatus, .ctrl, .irqEnable] then .fault .hostHazard
        else .next (s.writeCsr v r)) ∧
    (∀ r o, locate s.build addr w = some (.ram r o) →
      hostWrite addr w v s =
        if ∃ g ∈ (instrFootprint s i).readRams ++ (instrFootprint s i).writeRams,
            g.ram = r ∧ 0 < g.len ∧ g.off < o + n ∧ o < g.off + g.len then .fault .hostHazard
        else .next (s.writeRam r o ((List.range n).map fun k => v.extractLsb' (8 * k) 8))) ∧
    (∀ o, locate s.build addr w = some (.outwin o) →
      hostWrite addr w v s =
        if i ∈ [Instr.rx, .rxDec, .release] then .fault .hostHazard
        else .next { s with faults := s.faults ||| 0x8, irqStatus := s.irqStatus ||| 0x10 })

/-- R461 for every running command, over its row of R460 (FootprintsAreTheRowsOfTheTable): a host read of a register of
the write set, of a RAM byte of it, or of OUTWIN while RX or RELEASE runs, answers a free value (logs 5, 20); STATUS,
IRQ_STATUS, FAULTS, IRQ_ENABLE, CTRL, CMD, ID and PARAM0..2 are always defined; every other location answers its
current value. Recording and zero lanes: log 4. Operand registers at the access: log 10. -/
def Obligations.ReadsOfAWriteSetAreFree : Prop :=
  ∀ (s : State) (addr : Word) (w : AccessWidth) (n : Nat) (i : Instr),
    (w, n) ∈ [(AccessWidth.w8, 1), (.w16, 2), (.w32, 4)] →
    s.engState = .busy → decode s.pending = .ok i →
    (∀ r, locate s.build addr w = some (.csr r) →
      hostRead addr w s =
        if r ∈ (instrFootprint s i).writeCsrs ∧
            r ∉ [Csr.status, .irqStatus, .faults, .irqEnable, .ctrl, .cmd, .id, .param0, .param1, .param2] then
          { s with replies := Config.freeRead s.freeReads :: s.replies, freeReads := s.freeReads + 1 }
        else { s with replies := s.readCsr r :: s.replies }) ∧
    (∀ r o, locate s.build addr w = some (.ram r o) →
      ∃ a : Word,
        hostRead addr w s = { s with
          replies := a :: s.replies
          freeReads :=
            if ∃ g ∈ (instrFootprint s i).writeRams,
                g.ram = r ∧ 0 < g.len ∧ g.off < o + n ∧ o < g.off + g.len then s.freeReads + 1
            else s.freeReads } ∧
        ∀ k, k < 4 → a.extractLsb' (8 * k) 8 =
          if k < n then
            if ∃ g ∈ (instrFootprint s i).writeRams, g.ram = r ∧ g.off ≤ o + k ∧ o + k < g.off + g.len then
              (Config.freeRead s.freeReads).extractLsb' (8 * k) 8
            else s.ram r (o + k)
          else 0) ∧
    (∀ o, i ∈ [Instr.rx, .rxDec, .release] → locate s.build addr w = some (.outwin o) →
      ∃ a : Word,
        hostRead addr w s = { s with replies := a :: s.replies, freeReads := s.freeReads + 1 } ∧
        ∀ k, k < 4 → a.extractLsb' (8 * k) 8 =
          if k < n then (Config.freeRead s.freeReads).extractLsb' (8 * k) 8 else 0)

/-- R62: the slot inspection registers show slot SLOT_SEL, and read 0 at or past PEER_SLOTS. That SLOT_LEN shows the
low 32 bits of an exact LEN is the model's choice (log 11). -/
def Obligations.SlotInspectionShowsTheSelectedSlot : Prop :=
  ∀ (s : State) (n : Nat), s.build.peerSlots = .finite n →
    (s.slotSel.toNat < n →
      (s.readCsr .slotInfo).toNat =
        (if (s.slot s.slotSel.toNat).valid then 1 else 0) +
        (if s.deliver = true ∧ s.outSlot = s.slotSel.toNat then 2 else 0) ∧
      s.readCsr .slotCount = (s.slot s.slotSel.toNat).count ∧
      s.readCsr .slotLen = BitVec.ofNat 32 (s.slot s.slotSel.toNat).len ∧
      s.readCsr .slotKey3 ++ s.readCsr .slotKey2 ++ s.readCsr .slotKey1 ++ s.readCsr .slotKey0 =
        (s.slot s.slotSel.toNat).key) ∧
    (n ≤ s.slotSel.toNat → ∀ r ∈ slotCsrs, s.readCsr r = 0)

/-! ### Invariants -/

/-- R41: the build parameters, and so ID and PARAM0..2, are hardwired: no step changes them. -/
def Obligations.NoStepChangesTheBuild : Prop :=
  ∀ s t : State, step s = .next t → t.build = s.build ∧
    t.readCsr .id = s.readCsr .id ∧ t.readCsr .param0 = s.readCsr .param0 ∧
    t.readCsr .param1 = s.readCsr .param1 ∧ t.readCsr .param2 = s.readCsr .param2

/-- The invariant of Safety.lean holds at the reset state of every legal build. -/
def Obligations.ResetMeetsTheInvariant : Prop :=
  ∀ b : Build, b.wf = true → (State.resetOf b).Inv

/-- Every step keeps the invariant: memory and stores canonical and within their RAMs, PEER_SLOTS slots, no two
valid slots with one key and free slots empty (R64), LEN <= SLOT_BYTES, OUT_* describing the delivering slot,
RESET_PENDING only while BUSY. -/
def Obligations.EveryStepKeepsTheInvariant : Prop :=
  ∀ s t : State, s.Inv → step s = .next t → t.Inv
end

