-- ==== Sys2Proof/Laws/Memory.lean ====
section
/-! SUPPORT. Memory: what a read finds after a write, and the canonical form, which every operation keeps. -/

namespace Sys2Proof.Machine

/-! ### Reads after writes -/

@[simp] theorem Memory.read_nil (a : Nat) : Memory.read [] a = 0 := rfl

theorem Memory.read_erase (m : Memory) (a x : Nat) :
    (Memory.erase m a).read x = if x = a then 0 else m.read x := by
  induction m with
  | nil => simp [Memory.erase, Memory.read]
  | cons c m ih =>
    obtain ⟨y, b⟩ := c
    by_cases hy : y = a
    · simp only [Memory.erase, hy, if_true, ih, Memory.read]
      by_cases hx : x = a
      · simp [hx]
      · simp [hx, Ne.symm hx]
    · simp only [Memory.erase, hy, if_false, Memory.read, ih]
      by_cases hx : x = a
      · subst hx; simp [hy]
      · simp [hx]

theorem Memory.read_insert (m : Memory) (a : Nat) (b : Byte) (x : Nat) (hm : ¬ ∃ c ∈ m, c.1 = a) :
    (Memory.insert m a b).read x = if x = a then b else m.read x := by
  induction m with
  | nil =>
    by_cases hx : a = x
    · simp [Memory.insert, Memory.read, hx]
    · simp [Memory.insert, Memory.read, hx, Ne.symm hx]
  | cons c m ih =>
    obtain ⟨y, d⟩ := c
    have hya : y ≠ a := fun e => hm ⟨(y, d), by simp, e⟩
    by_cases hlt : a < y
    · by_cases hx : a = x
      · subst hx; simp [Memory.insert, hlt, Memory.read]
      · simp [Memory.insert, hlt, Memory.read, hx, Ne.symm hx]
    · have hm' : ¬ ∃ c ∈ m, c.1 = a := fun ⟨c, hc, e⟩ => hm ⟨c, by simp [hc], e⟩
      simp only [Memory.insert, hlt, if_false, Memory.read, ih hm']
      by_cases hx : x = a
      · subst hx; simp [hya]
      · simp [hx]

theorem Memory.not_mem_erase (m : Memory) (a : Nat) : ¬ ∃ c ∈ Memory.erase m a, c.1 = a := by
  induction m with
  | nil => simp [Memory.erase]
  | cons c m ih =>
    obtain ⟨y, b⟩ := c
    by_cases hy : y = a
    · simpa [Memory.erase, hy] using ih
    · simp only [Memory.erase, hy, if_false]
      rintro ⟨c, hc, e⟩
      rcases List.mem_cons.mp hc with rfl | hc
      · exact hy e
      · exact ih ⟨c, hc, e⟩

/-- A read after a write finds the byte written, and every other address as before (R107). -/
theorem Memory.read_write (m : Memory) (a : Nat) (b : Byte) (x : Nat) :
    (m.write a b).read x = if x = a then b else m.read x := by
  unfold Memory.write
  split
  · next h => rw [Memory.read_erase, h]
  · rw [Memory.read_insert _ a b x (Memory.not_mem_erase m a), Memory.read_erase]
    split <;> simp_all

/-- A read after a write of a byte string (R104, R107). -/
theorem Memory.read_writeBytes (bs : List Byte) (m : Memory) (a x : Nat) :
    (m.writeBytes a bs).read x =
      if a ≤ x ∧ x < a + bs.length then byteAt bs (x - a) else m.read x := by
  induction bs generalizing m a with
  | nil => simp [Memory.writeBytes]
  | cons b bs ih =>
    simp only [Memory.writeBytes, ih, Memory.read_write, List.length_cons, byteAt]
    by_cases h1 : x = a
    · subst h1; simp
    · by_cases h2 : a + 1 ≤ x ∧ x < a + 1 + bs.length
      · have h3 : a ≤ x ∧ x < a + (bs.length + 1) := by omega
        have h4 : x - a = (x - (a + 1)) + 1 := by omega
        rw [if_pos h2, if_pos h3, h4, List.getD_cons_succ]
      · have h3 : ¬ (a ≤ x ∧ x < a + (bs.length + 1)) := by omega
        rw [if_neg h2, if_neg h3, if_neg h1]

@[simp] theorem Memory.length_readBytes (m : Memory) (a n : Nat) : (m.readBytes a n).length = n := by
  induction n generalizing a with
  | zero => rfl
  | succ n ih => simp [Memory.readBytes, ih]

/-- Byte i of a region is the byte at its address (R12). -/
theorem Memory.byteAt_readBytes (m : Memory) (a n i : Nat) (h : i < n) :
    byteAt (m.readBytes a n) i = m.read (a + i) := by
  induction n generalizing a i with
  | zero => omega
  | succ n ih =>
    cases i with
    | zero => simp [Memory.readBytes, byteAt]
    | succ i =>
      have := ih (a + 1) i (by omega)
      simpa [Memory.readBytes, byteAt, Nat.add_assoc, Nat.add_comm 1 i] using this

/-- Regions of equal bytes are equal byte strings. -/
theorem Memory.readBytes_congr (m m' : Memory) (a a' n : Nat)
    (h : ∀ i, i < n → m.read (a + i) = m'.read (a' + i)) : m.readBytes a n = m'.readBytes a' n := by
  induction n generalizing a a' with
  | zero => rfl
  | succ n ih =>
    have h0 := h 0 (by omega)
    simp only [Nat.add_zero] at h0
    simp only [Memory.readBytes, h0, List.cons.injEq, true_and]
    refine ih (a + 1) (a' + 1) fun i hi => ?_
    have := h (i + 1) (by omega)
    simpa [Nat.add_assoc, Nat.add_comm 1 i] using this

/-- Writing back what a region holds changes no byte's value. -/
theorem Memory.readBytes_writeBytes (m : Memory) (a : Nat) (bs : List Byte) :
    (m.writeBytes a bs).readBytes a bs.length = bs := by
  induction bs generalizing m a with
  | nil => rfl
  | cons b bs ih =>
    simp only [Memory.writeBytes, List.length_cons, Memory.readBytes, ih, List.cons.injEq, and_true]
    rw [Memory.read_writeBytes, if_neg (by omega), Memory.read_write, if_pos rfl]

/-! ### The canonical form -/

theorem Memory.wfFrom_mono (m : Memory) {lo lo' : Nat} (h : lo' ≤ lo) (hm : Memory.wfFrom lo m = true) :
    Memory.wfFrom lo' m = true := by
  cases m with
  | nil => rfl
  | cons c m =>
    simp only [Memory.wfFrom, Bool.and_eq_true, decide_eq_true_eq] at hm ⊢
    exact ⟨⟨h.trans hm.1.1, hm.1.2⟩, hm.2⟩

theorem Memory.wfFrom_erase (m : Memory) (a lo : Nat) (h : Memory.wfFrom lo m = true) :
    Memory.wfFrom lo (Memory.erase m a) = true := by
  induction m generalizing lo with
  | nil => rfl
  | cons c m ih =>
    obtain ⟨x, b⟩ := c
    simp only [Memory.wfFrom, Bool.and_eq_true, decide_eq_true_eq] at h
    by_cases hx : x = a
    · simp only [Memory.erase, hx, if_true]
      exact Memory.wfFrom_mono _ (by omega) (ih (x + 1) h.2)
    · simp only [Memory.erase, hx, if_false, Memory.wfFrom, Bool.and_eq_true, decide_eq_true_eq]
      exact ⟨h.1, ih (x + 1) h.2⟩

theorem Memory.wfFrom_insert (m : Memory) (a : Nat) (b : Byte) (lo : Nat) (hlo : lo ≤ a) (hb : b ≠ 0)
    (ha : ¬ ∃ c ∈ m, c.1 = a) (h : Memory.wfFrom lo m = true) :
    Memory.wfFrom lo (Memory.insert m a b) = true := by
  induction m generalizing lo with
  | nil => simpa [Memory.insert, Memory.wfFrom, hlo] using hb
  | cons c m ih =>
    obtain ⟨x, d⟩ := c
    simp only [Memory.wfFrom, Bool.and_eq_true, decide_eq_true_eq] at h
    have hx : x ≠ a := fun e => ha ⟨(x, d), by simp, e⟩
    by_cases hlt : a < x
    · simp only [Memory.insert, hlt, if_true, Memory.wfFrom, Bool.and_eq_true, decide_eq_true_eq]
      exact ⟨⟨hlo, by simpa using hb⟩, ⟨hlt, h.1.2⟩, h.2⟩
    · simp only [Memory.insert, hlt, if_false, Memory.wfFrom, Bool.and_eq_true, decide_eq_true_eq]
      exact ⟨h.1, ih (x + 1) (by omega) (fun ⟨c, hc, e⟩ => ha ⟨c, by simp [hc], e⟩) h.2⟩

/-- Every byte write keeps the canonical form. -/
theorem Memory.wf_write (m : Memory) (a : Nat) (b : Byte) (h : m.wf = true) : (m.write a b).wf = true := by
  unfold Memory.write
  split
  · exact Memory.wfFrom_erase m a 0 h
  · next hb =>
    exact Memory.wfFrom_insert _ a b 0 (Nat.zero_le a) hb (Memory.not_mem_erase m a)
      (Memory.wfFrom_erase m a 0 h)

/-- Every write of a byte string keeps the canonical form. -/
theorem Memory.wf_writeBytes (bs : List Byte) (m : Memory) (a : Nat) (h : m.wf = true) :
    (m.writeBytes a bs).wf = true := by
  induction bs generalizing m a with
  | nil => exact h
  | cons b bs ih => exact ih _ _ (Memory.wf_write m a b h)

theorem Memory.mem_erase {m : Memory} {a : Nat} {c : Host.Cell} (h : c ∈ Memory.erase m a) : c ∈ m := by
  induction m with
  | nil => simp [Memory.erase] at h
  | cons d m ih =>
    obtain ⟨x, b⟩ := d
    by_cases hx : x = a
    · simp only [Memory.erase, hx, if_true] at h; exact List.mem_cons_of_mem _ (ih h)
    · simp only [Memory.erase, hx, if_false, List.mem_cons] at h
      rcases h with rfl | h
      · simp
      · exact List.mem_cons_of_mem _ (ih h)

theorem Memory.mem_insert {m : Memory} {a : Nat} {b : Byte} {c : Host.Cell}
    (h : c ∈ Memory.insert m a b) : c = (a, b) ∨ c ∈ m := by
  induction m with
  | nil => simpa [Memory.insert] using h
  | cons d m ih =>
    obtain ⟨x, e⟩ := d
    by_cases hlt : a < x
    · simpa [Memory.insert, hlt] using h
    · simp only [Memory.insert, hlt, if_false, List.mem_cons] at h
      rcases h with rfl | h
      · simp
      · rcases ih h with h | h
        · exact .inl h
        · exact .inr (List.mem_cons_of_mem _ h)

/-- A write lists no address but those written (R113). -/
theorem Memory.mem_writeBytes {bs : List Byte} {m : Memory} {a : Nat} {c : Host.Cell}
    (h : c ∈ m.writeBytes a bs) : c ∈ m ∨ (a ≤ c.1 ∧ c.1 < a + bs.length) := by
  induction bs generalizing m a with
  | nil => exact .inl h
  | cons b bs ih =>
    rcases ih h with h | h
    · unfold Memory.write at h
      split at h
      · exact .inl (Memory.mem_erase h)
      · rcases Memory.mem_insert h with rfl | h
        · right; simp
        · exact .inl (Memory.mem_erase h)
    · right; simp only [List.length_cons]; omega

/-- A canonical memory lists nothing below its lower bound. -/
theorem Memory.read_below {m : Memory} {lo a : Nat} (h : Memory.wfFrom lo m = true) (ha : a < lo) :
    m.read a = 0 := by
  induction m generalizing lo with
  | nil => rfl
  | cons c m ih =>
    obtain ⟨x, b⟩ := c
    simp only [Memory.wfFrom, Bool.and_eq_true, decide_eq_true_eq] at h
    simp only [Memory.read, if_neg (show x ≠ a by omega)]
    exact ih h.2 (by omega)

theorem Memory.ext_from {m m' : Memory} {lo : Nat} (h : Memory.wfFrom lo m = true)
    (h' : Memory.wfFrom lo m' = true) (e : ∀ a, m.read a = m'.read a) : m = m' := by
  induction m generalizing m' lo with
  | nil =>
    cases m' with
    | nil => rfl
    | cons c m' =>
      obtain ⟨x, b⟩ := c
      simp only [Memory.wfFrom, Bool.and_eq_true, bne_iff_ne] at h'
      exact absurd (by simpa [Memory.read] using (e x).symm) h'.1.2
  | cons c m ih =>
    obtain ⟨x, b⟩ := c
    cases m' with
    | nil =>
      simp only [Memory.wfFrom, Bool.and_eq_true, bne_iff_ne] at h
      exact absurd (by simpa [Memory.read] using e x) h.1.2
    | cons c' m' =>
      obtain ⟨y, d⟩ := c'
      simp only [Memory.wfFrom, Bool.and_eq_true, bne_iff_ne, decide_eq_true_eq] at h h'
      have hxy : x = y := by
        rcases Nat.lt_trichotomy x y with hlt | heq | hgt
        · have := e x
          simp only [Memory.read, if_true, if_neg (show y ≠ x by omega)] at this
          rw [Memory.read_below h'.2 (by omega)] at this
          exact absurd this h.1.2
        · exact heq
        · have := e y
          simp only [Memory.read, if_true, if_neg (show x ≠ y by omega)] at this
          rw [Memory.read_below h.2 (by omega)] at this
          exact absurd this.symm h'.1.2
      subst hxy
      have hbd : b = d := by simpa [Memory.read] using e x
      subst hbd
      congr 1
      refine ih h.2 h'.2 fun a => ?_
      by_cases ha : a = x
      · subst ha
        rw [Memory.read_below h.2 (by omega), Memory.read_below h'.2 (by omega)]
      · simpa [Memory.read, Ne.symm ha] using e a

/-- Equal contents are equal data: the point of the canonical form. -/
theorem Memory.ext_of_wf {m m' : Memory} (h : m.wf = true) (h' : m'.wf = true)
    (e : ∀ a, m.read a = m'.read a) : m = m' :=
  Memory.ext_from h h' e

/-- The memory of the reset state has the canonical form. -/
theorem reset_mem_wf : State.reset.mem.wf = true := rfl

end Sys2Proof.Machine
end

