-- ==== Sys2Proof/Laws/State.lean ====
section
/-! SUPPORT. One lemma per field of State for each shared update, true by rfl, so that no proof unfolds a record
update. -/

namespace Sys2Proof.Machine

/-! ### finish: finish(code) -/

@[simp] theorem finish_build (code : ErrCode) (s : State) : (finish code s).build = s.build := rfl
@[simp] theorem finish_arrivals (code : ErrCode) (s : State) : (finish code s).arrivals = s.arrivals := rfl
@[simp] theorem finish_replies (code : ErrCode) (s : State) : (finish code s).replies = s.replies := rfl
@[simp] theorem finish_freeReads (code : ErrCode) (s : State) : (finish code s).freeReads = s.freeReads := rfl
@[simp] theorem finish_engState (code : ErrCode) (s : State) : (finish code s).engState = .idle := rfl
@[simp] theorem finish_pending (code : ErrCode) (s : State) : (finish code s).pending = s.pending := rfl
@[simp] theorem finish_resetPending (code : ErrCode) (s : State) :
    (finish code s).resetPending = s.resetPending := rfl
@[simp] theorem finish_deliver (code : ErrCode) (s : State) : (finish code s).deliver = s.deliver := rfl
@[simp] theorem finish_errCode (code : ErrCode) (s : State) : (finish code s).errCode = code := rfl
@[simp] theorem finish_lastOp (code : ErrCode) (s : State) :
    (finish code s).lastOp = s.pending.extractLsb' 0 8 := rfl
@[simp] theorem finish_argOff (code : ErrCode) (s : State) : (finish code s).argOff = s.argOff := rfl
@[simp] theorem finish_argLen (code : ErrCode) (s : State) : (finish code s).argLen = s.argLen := rfl
@[simp] theorem finish_result (code : ErrCode) (s : State) : (finish code s).result = s.result := rfl
@[simp] theorem finish_faults (code : ErrCode) (s : State) : (finish code s).faults = s.faults := rfl
@[simp] theorem finish_irqStatus (code : ErrCode) (s : State) :
    (finish code s).irqStatus = s.irqStatus ||| finishIrq code := rfl
@[simp] theorem finish_irqEnable (code : ErrCode) (s : State) : (finish code s).irqEnable = s.irqEnable := rfl
@[simp] theorem finish_budget (code : ErrCode) (s : State) : (finish code s).budget = s.budget := rfl
@[simp] theorem finish_keyLen (code : ErrCode) (s : State) : (finish code s).keyLen = s.keyLen := rfl
@[simp] theorem finish_payloadLen (code : ErrCode) (s : State) :
    (finish code s).payloadLen = s.payloadLen := rfl
@[simp] theorem finish_segCrc (code : ErrCode) (s : State) : (finish code s).segCrc = s.segCrc := rfl
@[simp] theorem finish_segTotal (code : ErrCode) (s : State) : (finish code s).segTotal = s.segTotal := rfl
@[simp] theorem finish_segIndex (code : ErrCode) (s : State) : (finish code s).segIndex = s.segIndex := rfl
@[simp] theorem finish_blkLen (code : ErrCode) (s : State) : (finish code s).blkLen = s.blkLen := rfl
@[simp] theorem finish_integrityOk (code : ErrCode) (s : State) :
    (finish code s).integrityOk = s.integrityOk := rfl
@[simp] theorem finish_integrityValid (code : ErrCode) (s : State) :
    (finish code s).integrityValid = s.integrityValid := rfl
@[simp] theorem finish_rxLen (code : ErrCode) (s : State) : (finish code s).rxLen = s.rxLen := rfl
@[simp] theorem finish_txLen (code : ErrCode) (s : State) : (finish code s).txLen = s.txLen := rfl
@[simp] theorem finish_peerKey0 (code : ErrCode) (s : State) : (finish code s).peerKey0 = s.peerKey0 := rfl
@[simp] theorem finish_peerKey1 (code : ErrCode) (s : State) : (finish code s).peerKey1 = s.peerKey1 := rfl
@[simp] theorem finish_peerKey2 (code : ErrCode) (s : State) : (finish code s).peerKey2 = s.peerKey2 := rfl
@[simp] theorem finish_peerKey3 (code : ErrCode) (s : State) : (finish code s).peerKey3 = s.peerKey3 := rfl
@[simp] theorem finish_rxInfo (code : ErrCode) (s : State) : (finish code s).rxInfo = s.rxInfo := rfl
@[simp] theorem finish_outLen (code : ErrCode) (s : State) : (finish code s).outLen = s.outLen := rfl
@[simp] theorem finish_outCount (code : ErrCode) (s : State) : (finish code s).outCount = s.outCount := rfl
@[simp] theorem finish_outSlot (code : ErrCode) (s : State) : (finish code s).outSlot = s.outSlot := rfl
@[simp] theorem finish_outPeer (code : ErrCode) (s : State) : (finish code s).outPeer = s.outPeer := rfl
@[simp] theorem finish_cntRx (code : ErrCode) (s : State) : (finish code s).cntRx = s.cntRx := rfl
@[simp] theorem finish_cntShort (code : ErrCode) (s : State) : (finish code s).cntShort = s.cntShort := rfl
@[simp] theorem finish_cntDrop (code : ErrCode) (s : State) : (finish code s).cntDrop = s.cntDrop := rfl
@[simp] theorem finish_cntBadCrc (code : ErrCode) (s : State) : (finish code s).cntBadCrc = s.cntBadCrc := rfl
@[simp] theorem finish_cntDone (code : ErrCode) (s : State) : (finish code s).cntDone = s.cntDone := rfl
@[simp] theorem finish_slotSel (code : ErrCode) (s : State) : (finish code s).slotSel = s.slotSel := rfl
@[simp] theorem finish_slots (code : ErrCode) (s : State) : (finish code s).slots = s.slots := rfl
@[simp] theorem finish_mem (code : ErrCode) (s : State) : (finish code s).mem = s.mem := rfl

/-! ### raiseFault: raise FAULT -/

@[simp] theorem raiseFault_build (f : FaultBit) (s : State) : (raiseFault f s).build = s.build := rfl
@[simp] theorem raiseFault_arrivals (f : FaultBit) (s : State) : (raiseFault f s).arrivals = s.arrivals := rfl
@[simp] theorem raiseFault_replies (f : FaultBit) (s : State) : (raiseFault f s).replies = s.replies := rfl
@[simp] theorem raiseFault_freeReads (f : FaultBit) (s : State) :
    (raiseFault f s).freeReads = s.freeReads := rfl
@[simp] theorem raiseFault_engState (f : FaultBit) (s : State) : (raiseFault f s).engState = s.engState := rfl
@[simp] theorem raiseFault_pending (f : FaultBit) (s : State) : (raiseFault f s).pending = s.pending := rfl
@[simp] theorem raiseFault_resetPending (f : FaultBit) (s : State) :
    (raiseFault f s).resetPending = s.resetPending := rfl
@[simp] theorem raiseFault_deliver (f : FaultBit) (s : State) : (raiseFault f s).deliver = s.deliver := rfl
@[simp] theorem raiseFault_errCode (f : FaultBit) (s : State) : (raiseFault f s).errCode = s.errCode := rfl
@[simp] theorem raiseFault_lastOp (f : FaultBit) (s : State) : (raiseFault f s).lastOp = s.lastOp := rfl
@[simp] theorem raiseFault_argOff (f : FaultBit) (s : State) : (raiseFault f s).argOff = s.argOff := rfl
@[simp] theorem raiseFault_argLen (f : FaultBit) (s : State) : (raiseFault f s).argLen = s.argLen := rfl
@[simp] theorem raiseFault_result (f : FaultBit) (s : State) : (raiseFault f s).result = s.result := rfl
@[simp] theorem raiseFault_faults (f : FaultBit) (s : State) :
    (raiseFault f s).faults = s.faults ||| f.mask := rfl
@[simp] theorem raiseFault_irqStatus (f : FaultBit) (s : State) :
    (raiseFault f s).irqStatus = s.irqStatus ||| irqFault := rfl
@[simp] theorem raiseFault_irqEnable (f : FaultBit) (s : State) :
    (raiseFault f s).irqEnable = s.irqEnable := rfl
@[simp] theorem raiseFault_budget (f : FaultBit) (s : State) : (raiseFault f s).budget = s.budget := rfl
@[simp] theorem raiseFault_keyLen (f : FaultBit) (s : State) : (raiseFault f s).keyLen = s.keyLen := rfl
@[simp] theorem raiseFault_payloadLen (f : FaultBit) (s : State) :
    (raiseFault f s).payloadLen = s.payloadLen := rfl
@[simp] theorem raiseFault_segCrc (f : FaultBit) (s : State) : (raiseFault f s).segCrc = s.segCrc := rfl
@[simp] theorem raiseFault_segTotal (f : FaultBit) (s : State) : (raiseFault f s).segTotal = s.segTotal := rfl
@[simp] theorem raiseFault_segIndex (f : FaultBit) (s : State) : (raiseFault f s).segIndex = s.segIndex := rfl
@[simp] theorem raiseFault_blkLen (f : FaultBit) (s : State) : (raiseFault f s).blkLen = s.blkLen := rfl
@[simp] theorem raiseFault_integrityOk (f : FaultBit) (s : State) :
    (raiseFault f s).integrityOk = s.integrityOk := rfl
@[simp] theorem raiseFault_integrityValid (f : FaultBit) (s : State) :
    (raiseFault f s).integrityValid = s.integrityValid := rfl
@[simp] theorem raiseFault_rxLen (f : FaultBit) (s : State) : (raiseFault f s).rxLen = s.rxLen := rfl
@[simp] theorem raiseFault_txLen (f : FaultBit) (s : State) : (raiseFault f s).txLen = s.txLen := rfl
@[simp] theorem raiseFault_peerKey0 (f : FaultBit) (s : State) : (raiseFault f s).peerKey0 = s.peerKey0 := rfl
@[simp] theorem raiseFault_peerKey1 (f : FaultBit) (s : State) : (raiseFault f s).peerKey1 = s.peerKey1 := rfl
@[simp] theorem raiseFault_peerKey2 (f : FaultBit) (s : State) : (raiseFault f s).peerKey2 = s.peerKey2 := rfl
@[simp] theorem raiseFault_peerKey3 (f : FaultBit) (s : State) : (raiseFault f s).peerKey3 = s.peerKey3 := rfl
@[simp] theorem raiseFault_rxInfo (f : FaultBit) (s : State) : (raiseFault f s).rxInfo = s.rxInfo := rfl
@[simp] theorem raiseFault_outLen (f : FaultBit) (s : State) : (raiseFault f s).outLen = s.outLen := rfl
@[simp] theorem raiseFault_outCount (f : FaultBit) (s : State) : (raiseFault f s).outCount = s.outCount := rfl
@[simp] theorem raiseFault_outSlot (f : FaultBit) (s : State) : (raiseFault f s).outSlot = s.outSlot := rfl
@[simp] theorem raiseFault_outPeer (f : FaultBit) (s : State) : (raiseFault f s).outPeer = s.outPeer := rfl
@[simp] theorem raiseFault_cntRx (f : FaultBit) (s : State) : (raiseFault f s).cntRx = s.cntRx := rfl
@[simp] theorem raiseFault_cntShort (f : FaultBit) (s : State) : (raiseFault f s).cntShort = s.cntShort := rfl
@[simp] theorem raiseFault_cntDrop (f : FaultBit) (s : State) : (raiseFault f s).cntDrop = s.cntDrop := rfl
@[simp] theorem raiseFault_cntBadCrc (f : FaultBit) (s : State) :
    (raiseFault f s).cntBadCrc = s.cntBadCrc := rfl
@[simp] theorem raiseFault_cntDone (f : FaultBit) (s : State) : (raiseFault f s).cntDone = s.cntDone := rfl
@[simp] theorem raiseFault_slotSel (f : FaultBit) (s : State) : (raiseFault f s).slotSel = s.slotSel := rfl
@[simp] theorem raiseFault_slots (f : FaultBit) (s : State) : (raiseFault f s).slots = s.slots := rfl
@[simp] theorem raiseFault_mem (f : FaultBit) (s : State) : (raiseFault f s).mem = s.mem := rfl

/-! ### State.writeRam: a write of RAM bytes -/

@[simp] theorem State.writeRam_build (s : State) (r : Ram) (o : Nat) (bs : List Byte) :
    (s.writeRam r o bs).build = s.build := rfl
@[simp] theorem State.writeRam_arrivals (s : State) (r : Ram) (o : Nat) (bs : List Byte) :
    (s.writeRam r o bs).arrivals = s.arrivals := rfl
@[simp] theorem State.writeRam_replies (s : State) (r : Ram) (o : Nat) (bs : List Byte) :
    (s.writeRam r o bs).replies = s.replies := rfl
@[simp] theorem State.writeRam_freeReads (s : State) (r : Ram) (o : Nat) (bs : List Byte) :
    (s.writeRam r o bs).freeReads = s.freeReads := rfl
@[simp] theorem State.writeRam_engState (s : State) (r : Ram) (o : Nat) (bs : List Byte) :
    (s.writeRam r o bs).engState = s.engState := rfl
@[simp] theorem State.writeRam_pending (s : State) (r : Ram) (o : Nat) (bs : List Byte) :
    (s.writeRam r o bs).pending = s.pending := rfl
@[simp] theorem State.writeRam_resetPending (s : State) (r : Ram) (o : Nat) (bs : List Byte) :
    (s.writeRam r o bs).resetPending = s.resetPending := rfl
@[simp] theorem State.writeRam_deliver (s : State) (r : Ram) (o : Nat) (bs : List Byte) :
    (s.writeRam r o bs).deliver = s.deliver := rfl
@[simp] theorem State.writeRam_errCode (s : State) (r : Ram) (o : Nat) (bs : List Byte) :
    (s.writeRam r o bs).errCode = s.errCode := rfl
@[simp] theorem State.writeRam_lastOp (s : State) (r : Ram) (o : Nat) (bs : List Byte) :
    (s.writeRam r o bs).lastOp = s.lastOp := rfl
@[simp] theorem State.writeRam_argOff (s : State) (r : Ram) (o : Nat) (bs : List Byte) :
    (s.writeRam r o bs).argOff = s.argOff := rfl
@[simp] theorem State.writeRam_argLen (s : State) (r : Ram) (o : Nat) (bs : List Byte) :
    (s.writeRam r o bs).argLen = s.argLen := rfl
@[simp] theorem State.writeRam_result (s : State) (r : Ram) (o : Nat) (bs : List Byte) :
    (s.writeRam r o bs).result = s.result := rfl
@[simp] theorem State.writeRam_faults (s : State) (r : Ram) (o : Nat) (bs : List Byte) :
    (s.writeRam r o bs).faults = s.faults := rfl
@[simp] theorem State.writeRam_irqStatus (s : State) (r : Ram) (o : Nat) (bs : List Byte) :
    (s.writeRam r o bs).irqStatus = s.irqStatus := rfl
@[simp] theorem State.writeRam_irqEnable (s : State) (r : Ram) (o : Nat) (bs : List Byte) :
    (s.writeRam r o bs).irqEnable = s.irqEnable := rfl
@[simp] theorem State.writeRam_budget (s : State) (r : Ram) (o : Nat) (bs : List Byte) :
    (s.writeRam r o bs).budget = s.budget := rfl
@[simp] theorem State.writeRam_keyLen (s : State) (r : Ram) (o : Nat) (bs : List Byte) :
    (s.writeRam r o bs).keyLen = s.keyLen := rfl
@[simp] theorem State.writeRam_payloadLen (s : State) (r : Ram) (o : Nat) (bs : List Byte) :
    (s.writeRam r o bs).payloadLen = s.payloadLen := rfl
@[simp] theorem State.writeRam_segCrc (s : State) (r : Ram) (o : Nat) (bs : List Byte) :
    (s.writeRam r o bs).segCrc = s.segCrc := rfl
@[simp] theorem State.writeRam_segTotal (s : State) (r : Ram) (o : Nat) (bs : List Byte) :
    (s.writeRam r o bs).segTotal = s.segTotal := rfl
@[simp] theorem State.writeRam_segIndex (s : State) (r : Ram) (o : Nat) (bs : List Byte) :
    (s.writeRam r o bs).segIndex = s.segIndex := rfl
@[simp] theorem State.writeRam_blkLen (s : State) (r : Ram) (o : Nat) (bs : List Byte) :
    (s.writeRam r o bs).blkLen = s.blkLen := rfl
@[simp] theorem State.writeRam_integrityOk (s : State) (r : Ram) (o : Nat) (bs : List Byte) :
    (s.writeRam r o bs).integrityOk = s.integrityOk := rfl
@[simp] theorem State.writeRam_integrityValid (s : State) (r : Ram) (o : Nat) (bs : List Byte) :
    (s.writeRam r o bs).integrityValid = s.integrityValid := rfl
@[simp] theorem State.writeRam_rxLen (s : State) (r : Ram) (o : Nat) (bs : List Byte) :
    (s.writeRam r o bs).rxLen = s.rxLen := rfl
@[simp] theorem State.writeRam_txLen (s : State) (r : Ram) (o : Nat) (bs : List Byte) :
    (s.writeRam r o bs).txLen = s.txLen := rfl
@[simp] theorem State.writeRam_peerKey0 (s : State) (r : Ram) (o : Nat) (bs : List Byte) :
    (s.writeRam r o bs).peerKey0 = s.peerKey0 := rfl
@[simp] theorem State.writeRam_peerKey1 (s : State) (r : Ram) (o : Nat) (bs : List Byte) :
    (s.writeRam r o bs).peerKey1 = s.peerKey1 := rfl
@[simp] theorem State.writeRam_peerKey2 (s : State) (r : Ram) (o : Nat) (bs : List Byte) :
    (s.writeRam r o bs).peerKey2 = s.peerKey2 := rfl
@[simp] theorem State.writeRam_peerKey3 (s : State) (r : Ram) (o : Nat) (bs : List Byte) :
    (s.writeRam r o bs).peerKey3 = s.peerKey3 := rfl
@[simp] theorem State.writeRam_rxInfo (s : State) (r : Ram) (o : Nat) (bs : List Byte) :
    (s.writeRam r o bs).rxInfo = s.rxInfo := rfl
@[simp] theorem State.writeRam_outLen (s : State) (r : Ram) (o : Nat) (bs : List Byte) :
    (s.writeRam r o bs).outLen = s.outLen := rfl
@[simp] theorem State.writeRam_outCount (s : State) (r : Ram) (o : Nat) (bs : List Byte) :
    (s.writeRam r o bs).outCount = s.outCount := rfl
@[simp] theorem State.writeRam_outSlot (s : State) (r : Ram) (o : Nat) (bs : List Byte) :
    (s.writeRam r o bs).outSlot = s.outSlot := rfl
@[simp] theorem State.writeRam_outPeer (s : State) (r : Ram) (o : Nat) (bs : List Byte) :
    (s.writeRam r o bs).outPeer = s.outPeer := rfl
@[simp] theorem State.writeRam_cntRx (s : State) (r : Ram) (o : Nat) (bs : List Byte) :
    (s.writeRam r o bs).cntRx = s.cntRx := rfl
@[simp] theorem State.writeRam_cntShort (s : State) (r : Ram) (o : Nat) (bs : List Byte) :
    (s.writeRam r o bs).cntShort = s.cntShort := rfl
@[simp] theorem State.writeRam_cntDrop (s : State) (r : Ram) (o : Nat) (bs : List Byte) :
    (s.writeRam r o bs).cntDrop = s.cntDrop := rfl
@[simp] theorem State.writeRam_cntBadCrc (s : State) (r : Ram) (o : Nat) (bs : List Byte) :
    (s.writeRam r o bs).cntBadCrc = s.cntBadCrc := rfl
@[simp] theorem State.writeRam_cntDone (s : State) (r : Ram) (o : Nat) (bs : List Byte) :
    (s.writeRam r o bs).cntDone = s.cntDone := rfl
@[simp] theorem State.writeRam_slotSel (s : State) (r : Ram) (o : Nat) (bs : List Byte) :
    (s.writeRam r o bs).slotSel = s.slotSel := rfl
@[simp] theorem State.writeRam_slots (s : State) (r : Ram) (o : Nat) (bs : List Byte) :
    (s.writeRam r o bs).slots = s.slots := rfl
@[simp] theorem State.writeRam_mem (s : State) (r : Ram) (o : Nat) (bs : List Byte) :
    (s.writeRam r o bs).mem = s.mem.writeBytes (r.base + o) bs := rfl

/-! ### recordSegment: the SEG registers from a segment -/

@[simp] theorem recordSegment_build (g : Segment) (s : State) : (recordSegment g s).build = s.build := rfl
@[simp] theorem recordSegment_arrivals (g : Segment) (s : State) :
    (recordSegment g s).arrivals = s.arrivals := rfl
@[simp] theorem recordSegment_replies (g : Segment) (s : State) :
    (recordSegment g s).replies = s.replies := rfl
@[simp] theorem recordSegment_freeReads (g : Segment) (s : State) :
    (recordSegment g s).freeReads = s.freeReads := rfl
@[simp] theorem recordSegment_engState (g : Segment) (s : State) :
    (recordSegment g s).engState = s.engState := rfl
@[simp] theorem recordSegment_pending (g : Segment) (s : State) :
    (recordSegment g s).pending = s.pending := rfl
@[simp] theorem recordSegment_resetPending (g : Segment) (s : State) :
    (recordSegment g s).resetPending = s.resetPending := rfl
@[simp] theorem recordSegment_deliver (g : Segment) (s : State) :
    (recordSegment g s).deliver = s.deliver := rfl
@[simp] theorem recordSegment_errCode (g : Segment) (s : State) :
    (recordSegment g s).errCode = s.errCode := rfl
@[simp] theorem recordSegment_lastOp (g : Segment) (s : State) : (recordSegment g s).lastOp = s.lastOp := rfl
@[simp] theorem recordSegment_argOff (g : Segment) (s : State) : (recordSegment g s).argOff = s.argOff := rfl
@[simp] theorem recordSegment_argLen (g : Segment) (s : State) : (recordSegment g s).argLen = s.argLen := rfl
@[simp] theorem recordSegment_result (g : Segment) (s : State) : (recordSegment g s).result = s.result := rfl
@[simp] theorem recordSegment_faults (g : Segment) (s : State) : (recordSegment g s).faults = s.faults := rfl
@[simp] theorem recordSegment_irqStatus (g : Segment) (s : State) :
    (recordSegment g s).irqStatus = s.irqStatus := rfl
@[simp] theorem recordSegment_irqEnable (g : Segment) (s : State) :
    (recordSegment g s).irqEnable = s.irqEnable := rfl
@[simp] theorem recordSegment_budget (g : Segment) (s : State) : (recordSegment g s).budget = s.budget := rfl
@[simp] theorem recordSegment_keyLen (g : Segment) (s : State) : (recordSegment g s).keyLen = s.keyLen := rfl
@[simp] theorem recordSegment_payloadLen (g : Segment) (s : State) :
    (recordSegment g s).payloadLen = s.payloadLen := rfl
@[simp] theorem recordSegment_segCrc (g : Segment) (s : State) :
    (recordSegment g s).segCrc = g.checksum := rfl
@[simp] theorem recordSegment_segTotal (g : Segment) (s : State) :
    (recordSegment g s).segTotal = g.total := rfl
@[simp] theorem recordSegment_segIndex (g : Segment) (s : State) :
    (recordSegment g s).segIndex = g.index := rfl
@[simp] theorem recordSegment_blkLen (g : Segment) (s : State) :
    (recordSegment g s).blkLen = BitVec.ofNat 16 g.block.length := rfl
@[simp] theorem recordSegment_integrityOk (g : Segment) (s : State) :
    (recordSegment g s).integrityOk = s.integrityOk := rfl
@[simp] theorem recordSegment_integrityValid (g : Segment) (s : State) :
    (recordSegment g s).integrityValid = s.integrityValid := rfl
@[simp] theorem recordSegment_rxLen (g : Segment) (s : State) : (recordSegment g s).rxLen = s.rxLen := rfl
@[simp] theorem recordSegment_txLen (g : Segment) (s : State) : (recordSegment g s).txLen = s.txLen := rfl
@[simp] theorem recordSegment_peerKey0 (g : Segment) (s : State) :
    (recordSegment g s).peerKey0 = s.peerKey0 := rfl
@[simp] theorem recordSegment_peerKey1 (g : Segment) (s : State) :
    (recordSegment g s).peerKey1 = s.peerKey1 := rfl
@[simp] theorem recordSegment_peerKey2 (g : Segment) (s : State) :
    (recordSegment g s).peerKey2 = s.peerKey2 := rfl
@[simp] theorem recordSegment_peerKey3 (g : Segment) (s : State) :
    (recordSegment g s).peerKey3 = s.peerKey3 := rfl
@[simp] theorem recordSegment_rxInfo (g : Segment) (s : State) : (recordSegment g s).rxInfo = s.rxInfo := rfl
@[simp] theorem recordSegment_outLen (g : Segment) (s : State) : (recordSegment g s).outLen = s.outLen := rfl
@[simp] theorem recordSegment_outCount (g : Segment) (s : State) :
    (recordSegment g s).outCount = s.outCount := rfl
@[simp] theorem recordSegment_outSlot (g : Segment) (s : State) :
    (recordSegment g s).outSlot = s.outSlot := rfl
@[simp] theorem recordSegment_outPeer (g : Segment) (s : State) :
    (recordSegment g s).outPeer = s.outPeer := rfl
@[simp] theorem recordSegment_cntRx (g : Segment) (s : State) : (recordSegment g s).cntRx = s.cntRx := rfl
@[simp] theorem recordSegment_cntShort (g : Segment) (s : State) :
    (recordSegment g s).cntShort = s.cntShort := rfl
@[simp] theorem recordSegment_cntDrop (g : Segment) (s : State) :
    (recordSegment g s).cntDrop = s.cntDrop := rfl
@[simp] theorem recordSegment_cntBadCrc (g : Segment) (s : State) :
    (recordSegment g s).cntBadCrc = s.cntBadCrc := rfl
@[simp] theorem recordSegment_cntDone (g : Segment) (s : State) :
    (recordSegment g s).cntDone = s.cntDone := rfl
@[simp] theorem recordSegment_slotSel (g : Segment) (s : State) :
    (recordSegment g s).slotSel = s.slotSel := rfl
@[simp] theorem recordSegment_slots (g : Segment) (s : State) : (recordSegment g s).slots = s.slots := rfl
@[simp] theorem recordSegment_mem (g : Segment) (s : State) : (recordSegment g s).mem = s.mem := rfl

/-! ### recordIntegrity: the advisory integrity result -/

@[simp] theorem recordIntegrity_build (ok : Bool) (s : State) : (recordIntegrity ok s).build = s.build := rfl
@[simp] theorem recordIntegrity_arrivals (ok : Bool) (s : State) :
    (recordIntegrity ok s).arrivals = s.arrivals := rfl
@[simp] theorem recordIntegrity_replies (ok : Bool) (s : State) :
    (recordIntegrity ok s).replies = s.replies := rfl
@[simp] theorem recordIntegrity_freeReads (ok : Bool) (s : State) :
    (recordIntegrity ok s).freeReads = s.freeReads := rfl
@[simp] theorem recordIntegrity_engState (ok : Bool) (s : State) :
    (recordIntegrity ok s).engState = s.engState := rfl
@[simp] theorem recordIntegrity_pending (ok : Bool) (s : State) :
    (recordIntegrity ok s).pending = s.pending := rfl
@[simp] theorem recordIntegrity_resetPending (ok : Bool) (s : State) :
    (recordIntegrity ok s).resetPending = s.resetPending := rfl
@[simp] theorem recordIntegrity_deliver (ok : Bool) (s : State) :
    (recordIntegrity ok s).deliver = s.deliver := rfl
@[simp] theorem recordIntegrity_errCode (ok : Bool) (s : State) :
    (recordIntegrity ok s).errCode = s.errCode := rfl
@[simp] theorem recordIntegrity_lastOp (ok : Bool) (s : State) :
    (recordIntegrity ok s).lastOp = s.lastOp := rfl
@[simp] theorem recordIntegrity_argOff (ok : Bool) (s : State) :
    (recordIntegrity ok s).argOff = s.argOff := rfl
@[simp] theorem recordIntegrity_argLen (ok : Bool) (s : State) :
    (recordIntegrity ok s).argLen = s.argLen := rfl
@[simp] theorem recordIntegrity_result (ok : Bool) (s : State) :
    (recordIntegrity ok s).result = s.result := rfl
@[simp] theorem recordIntegrity_faults (ok : Bool) (s : State) :
    (recordIntegrity ok s).faults = s.faults := rfl
@[simp] theorem recordIntegrity_irqStatus (ok : Bool) (s : State) :
    (recordIntegrity ok s).irqStatus = if ok then s.irqStatus else s.irqStatus ||| irqIntegrity := rfl
@[simp] theorem recordIntegrity_irqEnable (ok : Bool) (s : State) :
    (recordIntegrity ok s).irqEnable = s.irqEnable := rfl
@[simp] theorem recordIntegrity_budget (ok : Bool) (s : State) :
    (recordIntegrity ok s).budget = s.budget := rfl
@[simp] theorem recordIntegrity_keyLen (ok : Bool) (s : State) :
    (recordIntegrity ok s).keyLen = s.keyLen := rfl
@[simp] theorem recordIntegrity_payloadLen (ok : Bool) (s : State) :
    (recordIntegrity ok s).payloadLen = s.payloadLen := rfl
@[simp] theorem recordIntegrity_segCrc (ok : Bool) (s : State) :
    (recordIntegrity ok s).segCrc = s.segCrc := rfl
@[simp] theorem recordIntegrity_segTotal (ok : Bool) (s : State) :
    (recordIntegrity ok s).segTotal = s.segTotal := rfl
@[simp] theorem recordIntegrity_segIndex (ok : Bool) (s : State) :
    (recordIntegrity ok s).segIndex = s.segIndex := rfl
@[simp] theorem recordIntegrity_blkLen (ok : Bool) (s : State) :
    (recordIntegrity ok s).blkLen = s.blkLen := rfl
@[simp] theorem recordIntegrity_integrityOk (ok : Bool) (s : State) :
    (recordIntegrity ok s).integrityOk = ok := rfl
@[simp] theorem recordIntegrity_integrityValid (ok : Bool) (s : State) :
    (recordIntegrity ok s).integrityValid = true := rfl
@[simp] theorem recordIntegrity_rxLen (ok : Bool) (s : State) : (recordIntegrity ok s).rxLen = s.rxLen := rfl
@[simp] theorem recordIntegrity_txLen (ok : Bool) (s : State) : (recordIntegrity ok s).txLen = s.txLen := rfl
@[simp] theorem recordIntegrity_peerKey0 (ok : Bool) (s : State) :
    (recordIntegrity ok s).peerKey0 = s.peerKey0 := rfl
@[simp] theorem recordIntegrity_peerKey1 (ok : Bool) (s : State) :
    (recordIntegrity ok s).peerKey1 = s.peerKey1 := rfl
@[simp] theorem recordIntegrity_peerKey2 (ok : Bool) (s : State) :
    (recordIntegrity ok s).peerKey2 = s.peerKey2 := rfl
@[simp] theorem recordIntegrity_peerKey3 (ok : Bool) (s : State) :
    (recordIntegrity ok s).peerKey3 = s.peerKey3 := rfl
@[simp] theorem recordIntegrity_rxInfo (ok : Bool) (s : State) :
    (recordIntegrity ok s).rxInfo = s.rxInfo := rfl
@[simp] theorem recordIntegrity_outLen (ok : Bool) (s : State) :
    (recordIntegrity ok s).outLen = s.outLen := rfl
@[simp] theorem recordIntegrity_outCount (ok : Bool) (s : State) :
    (recordIntegrity ok s).outCount = s.outCount := rfl
@[simp] theorem recordIntegrity_outSlot (ok : Bool) (s : State) :
    (recordIntegrity ok s).outSlot = s.outSlot := rfl
@[simp] theorem recordIntegrity_outPeer (ok : Bool) (s : State) :
    (recordIntegrity ok s).outPeer = s.outPeer := rfl
@[simp] theorem recordIntegrity_cntRx (ok : Bool) (s : State) : (recordIntegrity ok s).cntRx = s.cntRx := rfl
@[simp] theorem recordIntegrity_cntShort (ok : Bool) (s : State) :
    (recordIntegrity ok s).cntShort = s.cntShort := rfl
@[simp] theorem recordIntegrity_cntDrop (ok : Bool) (s : State) :
    (recordIntegrity ok s).cntDrop = s.cntDrop := rfl
@[simp] theorem recordIntegrity_cntBadCrc (ok : Bool) (s : State) :
    (recordIntegrity ok s).cntBadCrc = s.cntBadCrc := rfl
@[simp] theorem recordIntegrity_cntDone (ok : Bool) (s : State) :
    (recordIntegrity ok s).cntDone = s.cntDone := rfl
@[simp] theorem recordIntegrity_slotSel (ok : Bool) (s : State) :
    (recordIntegrity ok s).slotSel = s.slotSel := rfl
@[simp] theorem recordIntegrity_slots (ok : Bool) (s : State) : (recordIntegrity ok s).slots = s.slots := rfl
@[simp] theorem recordIntegrity_mem (ok : Bool) (s : State) : (recordIntegrity ok s).mem = s.mem := rfl

/-! ### emitDatagram: a datagram put into TXBUF -/

@[simp] theorem emitDatagram_build (d : List Byte) (s : State) : (emitDatagram d s).build = s.build := rfl
@[simp] theorem emitDatagram_arrivals (d : List Byte) (s : State) :
    (emitDatagram d s).arrivals = s.arrivals := rfl
@[simp] theorem emitDatagram_replies (d : List Byte) (s : State) :
    (emitDatagram d s).replies = s.replies := rfl
@[simp] theorem emitDatagram_freeReads (d : List Byte) (s : State) :
    (emitDatagram d s).freeReads = s.freeReads := rfl
@[simp] theorem emitDatagram_engState (d : List Byte) (s : State) :
    (emitDatagram d s).engState = s.engState := rfl
@[simp] theorem emitDatagram_pending (d : List Byte) (s : State) :
    (emitDatagram d s).pending = s.pending := rfl
@[simp] theorem emitDatagram_resetPending (d : List Byte) (s : State) :
    (emitDatagram d s).resetPending = s.resetPending := rfl
@[simp] theorem emitDatagram_deliver (d : List Byte) (s : State) :
    (emitDatagram d s).deliver = s.deliver := rfl
@[simp] theorem emitDatagram_errCode (d : List Byte) (s : State) :
    (emitDatagram d s).errCode = s.errCode := rfl
@[simp] theorem emitDatagram_lastOp (d : List Byte) (s : State) : (emitDatagram d s).lastOp = s.lastOp := rfl
@[simp] theorem emitDatagram_argOff (d : List Byte) (s : State) : (emitDatagram d s).argOff = s.argOff := rfl
@[simp] theorem emitDatagram_argLen (d : List Byte) (s : State) : (emitDatagram d s).argLen = s.argLen := rfl
@[simp] theorem emitDatagram_result (d : List Byte) (s : State) : (emitDatagram d s).result = s.result := rfl
@[simp] theorem emitDatagram_faults (d : List Byte) (s : State) : (emitDatagram d s).faults = s.faults := rfl
@[simp] theorem emitDatagram_irqStatus (d : List Byte) (s : State) :
    (emitDatagram d s).irqStatus = s.irqStatus := rfl
@[simp] theorem emitDatagram_irqEnable (d : List Byte) (s : State) :
    (emitDatagram d s).irqEnable = s.irqEnable := rfl
@[simp] theorem emitDatagram_budget (d : List Byte) (s : State) : (emitDatagram d s).budget = s.budget := rfl
@[simp] theorem emitDatagram_keyLen (d : List Byte) (s : State) : (emitDatagram d s).keyLen = s.keyLen := rfl
@[simp] theorem emitDatagram_payloadLen (d : List Byte) (s : State) :
    (emitDatagram d s).payloadLen = s.payloadLen := rfl
@[simp] theorem emitDatagram_segCrc (d : List Byte) (s : State) : (emitDatagram d s).segCrc = s.segCrc := rfl
@[simp] theorem emitDatagram_segTotal (d : List Byte) (s : State) :
    (emitDatagram d s).segTotal = s.segTotal := rfl
@[simp] theorem emitDatagram_segIndex (d : List Byte) (s : State) :
    (emitDatagram d s).segIndex = s.segIndex := rfl
@[simp] theorem emitDatagram_blkLen (d : List Byte) (s : State) : (emitDatagram d s).blkLen = s.blkLen := rfl
@[simp] theorem emitDatagram_integrityOk (d : List Byte) (s : State) :
    (emitDatagram d s).integrityOk = s.integrityOk := rfl
@[simp] theorem emitDatagram_integrityValid (d : List Byte) (s : State) :
    (emitDatagram d s).integrityValid = s.integrityValid := rfl
@[simp] theorem emitDatagram_rxLen (d : List Byte) (s : State) : (emitDatagram d s).rxLen = s.rxLen := rfl
@[simp] theorem emitDatagram_txLen (d : List Byte) (s : State) : (emitDatagram d s).txLen = s.budget := rfl
@[simp] theorem emitDatagram_peerKey0 (d : List Byte) (s : State) :
    (emitDatagram d s).peerKey0 = s.peerKey0 := rfl
@[simp] theorem emitDatagram_peerKey1 (d : List Byte) (s : State) :
    (emitDatagram d s).peerKey1 = s.peerKey1 := rfl
@[simp] theorem emitDatagram_peerKey2 (d : List Byte) (s : State) :
    (emitDatagram d s).peerKey2 = s.peerKey2 := rfl
@[simp] theorem emitDatagram_peerKey3 (d : List Byte) (s : State) :
    (emitDatagram d s).peerKey3 = s.peerKey3 := rfl
@[simp] theorem emitDatagram_rxInfo (d : List Byte) (s : State) : (emitDatagram d s).rxInfo = s.rxInfo := rfl
@[simp] theorem emitDatagram_outLen (d : List Byte) (s : State) : (emitDatagram d s).outLen = s.outLen := rfl
@[simp] theorem emitDatagram_outCount (d : List Byte) (s : State) :
    (emitDatagram d s).outCount = s.outCount := rfl
@[simp] theorem emitDatagram_outSlot (d : List Byte) (s : State) :
    (emitDatagram d s).outSlot = s.outSlot := rfl
@[simp] theorem emitDatagram_outPeer (d : List Byte) (s : State) :
    (emitDatagram d s).outPeer = s.outPeer := rfl
@[simp] theorem emitDatagram_cntRx (d : List Byte) (s : State) : (emitDatagram d s).cntRx = s.cntRx := rfl
@[simp] theorem emitDatagram_cntShort (d : List Byte) (s : State) :
    (emitDatagram d s).cntShort = s.cntShort := rfl
@[simp] theorem emitDatagram_cntDrop (d : List Byte) (s : State) :
    (emitDatagram d s).cntDrop = s.cntDrop := rfl
@[simp] theorem emitDatagram_cntBadCrc (d : List Byte) (s : State) :
    (emitDatagram d s).cntBadCrc = s.cntBadCrc := rfl
@[simp] theorem emitDatagram_cntDone (d : List Byte) (s : State) :
    (emitDatagram d s).cntDone = s.cntDone := rfl
@[simp] theorem emitDatagram_slotSel (d : List Byte) (s : State) :
    (emitDatagram d s).slotSel = s.slotSel := rfl
@[simp] theorem emitDatagram_slots (d : List Byte) (s : State) : (emitDatagram d s).slots = s.slots := rfl
@[simp] theorem emitDatagram_mem (d : List Byte) (s : State) :
    (emitDatagram d s).mem = s.mem.writeBytes (Ram.txbuf.base + 0) d := rfl

/-! ### State.reply: an answer of the port -/

@[simp] theorem State.reply_build (s : State) (v : Word) : (s.reply v).build = s.build := rfl
@[simp] theorem State.reply_arrivals (s : State) (v : Word) : (s.reply v).arrivals = s.arrivals := rfl
@[simp] theorem State.reply_replies (s : State) (v : Word) : (s.reply v).replies = v :: s.replies := rfl
@[simp] theorem State.reply_freeReads (s : State) (v : Word) : (s.reply v).freeReads = s.freeReads := rfl
@[simp] theorem State.reply_engState (s : State) (v : Word) : (s.reply v).engState = s.engState := rfl
@[simp] theorem State.reply_pending (s : State) (v : Word) : (s.reply v).pending = s.pending := rfl
@[simp] theorem State.reply_resetPending (s : State) (v : Word) :
    (s.reply v).resetPending = s.resetPending := rfl
@[simp] theorem State.reply_deliver (s : State) (v : Word) : (s.reply v).deliver = s.deliver := rfl
@[simp] theorem State.reply_errCode (s : State) (v : Word) : (s.reply v).errCode = s.errCode := rfl
@[simp] theorem State.reply_lastOp (s : State) (v : Word) : (s.reply v).lastOp = s.lastOp := rfl
@[simp] theorem State.reply_argOff (s : State) (v : Word) : (s.reply v).argOff = s.argOff := rfl
@[simp] theorem State.reply_argLen (s : State) (v : Word) : (s.reply v).argLen = s.argLen := rfl
@[simp] theorem State.reply_result (s : State) (v : Word) : (s.reply v).result = s.result := rfl
@[simp] theorem State.reply_faults (s : State) (v : Word) : (s.reply v).faults = s.faults := rfl
@[simp] theorem State.reply_irqStatus (s : State) (v : Word) : (s.reply v).irqStatus = s.irqStatus := rfl
@[simp] theorem State.reply_irqEnable (s : State) (v : Word) : (s.reply v).irqEnable = s.irqEnable := rfl
@[simp] theorem State.reply_budget (s : State) (v : Word) : (s.reply v).budget = s.budget := rfl
@[simp] theorem State.reply_keyLen (s : State) (v : Word) : (s.reply v).keyLen = s.keyLen := rfl
@[simp] theorem State.reply_payloadLen (s : State) (v : Word) : (s.reply v).payloadLen = s.payloadLen := rfl
@[simp] theorem State.reply_segCrc (s : State) (v : Word) : (s.reply v).segCrc = s.segCrc := rfl
@[simp] theorem State.reply_segTotal (s : State) (v : Word) : (s.reply v).segTotal = s.segTotal := rfl
@[simp] theorem State.reply_segIndex (s : State) (v : Word) : (s.reply v).segIndex = s.segIndex := rfl
@[simp] theorem State.reply_blkLen (s : State) (v : Word) : (s.reply v).blkLen = s.blkLen := rfl
@[simp] theorem State.reply_integrityOk (s : State) (v : Word) :
    (s.reply v).integrityOk = s.integrityOk := rfl
@[simp] theorem State.reply_integrityValid (s : State) (v : Word) :
    (s.reply v).integrityValid = s.integrityValid := rfl
@[simp] theorem State.reply_rxLen (s : State) (v : Word) : (s.reply v).rxLen = s.rxLen := rfl
@[simp] theorem State.reply_txLen (s : State) (v : Word) : (s.reply v).txLen = s.txLen := rfl
@[simp] theorem State.reply_peerKey0 (s : State) (v : Word) : (s.reply v).peerKey0 = s.peerKey0 := rfl
@[simp] theorem State.reply_peerKey1 (s : State) (v : Word) : (s.reply v).peerKey1 = s.peerKey1 := rfl
@[simp] theorem State.reply_peerKey2 (s : State) (v : Word) : (s.reply v).peerKey2 = s.peerKey2 := rfl
@[simp] theorem State.reply_peerKey3 (s : State) (v : Word) : (s.reply v).peerKey3 = s.peerKey3 := rfl
@[simp] theorem State.reply_rxInfo (s : State) (v : Word) : (s.reply v).rxInfo = s.rxInfo := rfl
@[simp] theorem State.reply_outLen (s : State) (v : Word) : (s.reply v).outLen = s.outLen := rfl
@[simp] theorem State.reply_outCount (s : State) (v : Word) : (s.reply v).outCount = s.outCount := rfl
@[simp] theorem State.reply_outSlot (s : State) (v : Word) : (s.reply v).outSlot = s.outSlot := rfl
@[simp] theorem State.reply_outPeer (s : State) (v : Word) : (s.reply v).outPeer = s.outPeer := rfl
@[simp] theorem State.reply_cntRx (s : State) (v : Word) : (s.reply v).cntRx = s.cntRx := rfl
@[simp] theorem State.reply_cntShort (s : State) (v : Word) : (s.reply v).cntShort = s.cntShort := rfl
@[simp] theorem State.reply_cntDrop (s : State) (v : Word) : (s.reply v).cntDrop = s.cntDrop := rfl
@[simp] theorem State.reply_cntBadCrc (s : State) (v : Word) : (s.reply v).cntBadCrc = s.cntBadCrc := rfl
@[simp] theorem State.reply_cntDone (s : State) (v : Word) : (s.reply v).cntDone = s.cntDone := rfl
@[simp] theorem State.reply_slotSel (s : State) (v : Word) : (s.reply v).slotSel = s.slotSel := rfl
@[simp] theorem State.reply_slots (s : State) (v : Word) : (s.reply v).slots = s.slots := rfl
@[simp] theorem State.reply_mem (s : State) (v : Word) : (s.reply v).mem = s.mem := rfl

/-! ### State.replyFree: an answer that took a free value -/

@[simp] theorem State.replyFree_build (s : State) (v : Word) : (s.replyFree v).build = s.build := rfl
@[simp] theorem State.replyFree_arrivals (s : State) (v : Word) : (s.replyFree v).arrivals = s.arrivals := rfl
@[simp] theorem State.replyFree_replies (s : State) (v : Word) :
    (s.replyFree v).replies = v :: s.replies := rfl
@[simp] theorem State.replyFree_freeReads (s : State) (v : Word) :
    (s.replyFree v).freeReads = s.freeReads + 1 := rfl
@[simp] theorem State.replyFree_engState (s : State) (v : Word) : (s.replyFree v).engState = s.engState := rfl
@[simp] theorem State.replyFree_pending (s : State) (v : Word) : (s.replyFree v).pending = s.pending := rfl
@[simp] theorem State.replyFree_resetPending (s : State) (v : Word) :
    (s.replyFree v).resetPending = s.resetPending := rfl
@[simp] theorem State.replyFree_deliver (s : State) (v : Word) : (s.replyFree v).deliver = s.deliver := rfl
@[simp] theorem State.replyFree_errCode (s : State) (v : Word) : (s.replyFree v).errCode = s.errCode := rfl
@[simp] theorem State.replyFree_lastOp (s : State) (v : Word) : (s.replyFree v).lastOp = s.lastOp := rfl
@[simp] theorem State.replyFree_argOff (s : State) (v : Word) : (s.replyFree v).argOff = s.argOff := rfl
@[simp] theorem State.replyFree_argLen (s : State) (v : Word) : (s.replyFree v).argLen = s.argLen := rfl
@[simp] theorem State.replyFree_result (s : State) (v : Word) : (s.replyFree v).result = s.result := rfl
@[simp] theorem State.replyFree_faults (s : State) (v : Word) : (s.replyFree v).faults = s.faults := rfl
@[simp] theorem State.replyFree_irqStatus (s : State) (v : Word) :
    (s.replyFree v).irqStatus = s.irqStatus := rfl
@[simp] theorem State.replyFree_irqEnable (s : State) (v : Word) :
    (s.replyFree v).irqEnable = s.irqEnable := rfl
@[simp] theorem State.replyFree_budget (s : State) (v : Word) : (s.replyFree v).budget = s.budget := rfl
@[simp] theorem State.replyFree_keyLen (s : State) (v : Word) : (s.replyFree v).keyLen = s.keyLen := rfl
@[simp] theorem State.replyFree_payloadLen (s : State) (v : Word) :
    (s.replyFree v).payloadLen = s.payloadLen := rfl
@[simp] theorem State.replyFree_segCrc (s : State) (v : Word) : (s.replyFree v).segCrc = s.segCrc := rfl
@[simp] theorem State.replyFree_segTotal (s : State) (v : Word) : (s.replyFree v).segTotal = s.segTotal := rfl
@[simp] theorem State.replyFree_segIndex (s : State) (v : Word) : (s.replyFree v).segIndex = s.segIndex := rfl
@[simp] theorem State.replyFree_blkLen (s : State) (v : Word) : (s.replyFree v).blkLen = s.blkLen := rfl
@[simp] theorem State.replyFree_integrityOk (s : State) (v : Word) :
    (s.replyFree v).integrityOk = s.integrityOk := rfl
@[simp] theorem State.replyFree_integrityValid (s : State) (v : Word) :
    (s.replyFree v).integrityValid = s.integrityValid := rfl
@[simp] theorem State.replyFree_rxLen (s : State) (v : Word) : (s.replyFree v).rxLen = s.rxLen := rfl
@[simp] theorem State.replyFree_txLen (s : State) (v : Word) : (s.replyFree v).txLen = s.txLen := rfl
@[simp] theorem State.replyFree_peerKey0 (s : State) (v : Word) : (s.replyFree v).peerKey0 = s.peerKey0 := rfl
@[simp] theorem State.replyFree_peerKey1 (s : State) (v : Word) : (s.replyFree v).peerKey1 = s.peerKey1 := rfl
@[simp] theorem State.replyFree_peerKey2 (s : State) (v : Word) : (s.replyFree v).peerKey2 = s.peerKey2 := rfl
@[simp] theorem State.replyFree_peerKey3 (s : State) (v : Word) : (s.replyFree v).peerKey3 = s.peerKey3 := rfl
@[simp] theorem State.replyFree_rxInfo (s : State) (v : Word) : (s.replyFree v).rxInfo = s.rxInfo := rfl
@[simp] theorem State.replyFree_outLen (s : State) (v : Word) : (s.replyFree v).outLen = s.outLen := rfl
@[simp] theorem State.replyFree_outCount (s : State) (v : Word) : (s.replyFree v).outCount = s.outCount := rfl
@[simp] theorem State.replyFree_outSlot (s : State) (v : Word) : (s.replyFree v).outSlot = s.outSlot := rfl
@[simp] theorem State.replyFree_outPeer (s : State) (v : Word) : (s.replyFree v).outPeer = s.outPeer := rfl
@[simp] theorem State.replyFree_cntRx (s : State) (v : Word) : (s.replyFree v).cntRx = s.cntRx := rfl
@[simp] theorem State.replyFree_cntShort (s : State) (v : Word) : (s.replyFree v).cntShort = s.cntShort := rfl
@[simp] theorem State.replyFree_cntDrop (s : State) (v : Word) : (s.replyFree v).cntDrop = s.cntDrop := rfl
@[simp] theorem State.replyFree_cntBadCrc (s : State) (v : Word) :
    (s.replyFree v).cntBadCrc = s.cntBadCrc := rfl
@[simp] theorem State.replyFree_cntDone (s : State) (v : Word) : (s.replyFree v).cntDone = s.cntDone := rfl
@[simp] theorem State.replyFree_slotSel (s : State) (v : Word) : (s.replyFree v).slotSel = s.slotSel := rfl
@[simp] theorem State.replyFree_slots (s : State) (v : Word) : (s.replyFree v).slots = s.slots := rfl
@[simp] theorem State.replyFree_mem (s : State) (v : Word) : (s.replyFree v).mem = s.mem := rfl

/-! ### Reset -/

@[simp] theorem State.resetBlock_build (s : State) : s.resetBlock.build = s.build := rfl
@[simp] theorem State.resetBlock_arrivals (s : State) : s.resetBlock.arrivals = s.arrivals := rfl
@[simp] theorem State.resetBlock_replies (s : State) : s.resetBlock.replies = s.replies := rfl
@[simp] theorem State.resetBlock_freeReads (s : State) : s.resetBlock.freeReads = s.freeReads := rfl
@[simp] theorem State.resetBlock_resetPending (s : State) : s.resetBlock.resetPending = false := rfl
@[simp] theorem State.resetBlock_engState (s : State) : s.resetBlock.engState = .idle := rfl
@[simp] theorem State.resetBlock_deliver (s : State) : s.resetBlock.deliver = false := rfl
@[simp] theorem State.resetBlock_faults (s : State) : s.resetBlock.faults = 0 := rfl
@[simp] theorem State.resetBlock_mem (s : State) : s.resetBlock.mem = [] := rfl
@[simp] theorem State.resetBlock_slots (s : State) : s.resetBlock.slots = State.freeTable s.build.peerSlots := rfl

/-- Reset is the build's reset state but for the model's own fields (R451). -/
theorem State.resetBlock_eq (s : State) :
    s.resetBlock = { State.resetOf s.build with arrivals := s.arrivals, replies := s.replies, freeReads := s.freeReads } := rfl

/-- What the end of an ENGINE step can do (R130, R453). -/
theorem applyPendingReset_cases (s : State) :
    (s.resetPending = true ∧ applyPendingReset s = s.resetBlock) ∨
    (s.resetPending = false ∧ applyPendingReset s = s) := by
  cases h : s.resetPending <;> simp [applyPendingReset, h]

end Sys2Proof.Machine
end

