-- ==== Sys2Proof/Laws/Bytes.lean ====
section
/-! SUPPORT. Byte strings: lengths, and the keystream byte by byte (spec/41_cipher.md R220). -/

namespace Sys2Proof.Machine

@[simp] theorem length_be16 (v : Half) : (be16 v).length = 2 := rfl
@[simp] theorem length_be32 (v : Word) : (be32 v).length = 4 := rfl
@[simp] theorem length_zeros (n : Nat) : (zeros n).length = n := by simp [zeros]
@[simp] theorem length_laneBytes (v : Word) (n : Nat) : (laneBytes v n).length = n := by simp [laneBytes]

@[simp] theorem length_keystreamFrom (key : List Byte) (i : Nat) (bs : List Byte) :
    (keystreamFrom key i bs).length = bs.length := by
  induction bs generalizing i with
  | nil => rfl
  | cons b bs ih => simp [keystreamFrom, ih]

@[simp] theorem length_keystream (key bs : List Byte) : (keystream key bs).length = bs.length :=
  length_keystreamFrom key 0 bs

@[simp] theorem State.length_applyCipher (s : State) (enc : Bool) (bs : List Byte) :
    (s.applyCipher enc bs).length = bs.length := by
  cases enc <;> simp [State.applyCipher]

@[simp] theorem State.length_ramBytes (s : State) (r : Ram) (o n : Nat) : (s.ramBytes r o n).length = n :=
  Memory.length_readBytes _ _ _

@[simp] theorem State.length_datagram (s : State) (enc : Bool) : (s.datagram enc).length = s.rxExtent := by
  simp [State.datagram]

@[simp] theorem length_ser (g : Segment) : (ser g).length = 8 + g.block.length := by
  simp [ser]; omega

@[simp] theorem length_packBlock (m : Nat) (slice : List Byte) (h : slice.length ≤ m) :
    (packBlock m slice).length = m := by
  simp [packBlock]; omega

/-- A datagram never exceeds the budget (R324). -/
theorem State.rxExtent_le_budget (s : State) : s.rxExtent ≤ s.budget.toNat := by
  unfold State.rxExtent; split <;> omega

/-- The datagram FRAME serializes is B bytes long (R286). -/
theorem State.length_ser_frameSegment (s : State) (h8 : 8 < s.budget.toNat)
    (hs : s.blkLen.toNat ≤ s.maxPayload) : (ser s.frameSegment).length = s.budget.toNat := by
  simp only [length_ser, State.frameSegment, framedSegment]
  rw [length_packBlock _ _ (by simpa using hs)]
  simp only [State.maxPayload, Config.headerSize]; omega

/-- The datagram SERIALIZE writes is B bytes long (R248). -/
theorem State.length_serializeDatagram (s : State) (h : 8 + s.blkLen.toNat ≤ s.budget.toNat) :
    s.serializeDatagram.length = s.budget.toNat := by
  simp [State.serializeDatagram, State.serializeSegment, Config.headerSize]; omega

theorem byteAt_eq_getElem (bs : List Byte) (i : Nat) (h : i < bs.length) : byteAt bs i = bs[i] := by
  simp [byteAt, h]

/-- RAM byte i after a write of RAM bytes in the same RAM (R15). -/
theorem State.ram_writeRam_same (s : State) (r : Ram) (o : Nat) (bs : List Byte) (i : Nat) :
    (s.writeRam r o bs).ram r i = if o ≤ i ∧ i < o + bs.length then byteAt bs (i - o) else s.ram r i := by
  simp only [State.ram, State.writeRam_mem, Memory.read_writeBytes]
  by_cases h : o ≤ i ∧ i < o + bs.length
  · rw [if_pos (by omega), if_pos h]; congr 1; omega
  · rw [if_neg (by omega), if_neg h]

end Sys2Proof.Machine
end

