-- ==== Sys2Proof/Laws/Commands.lean ====
section
/-! SUPPORT. One lemma per shared command operation: everything it can do, its checks in their order (spec/60_exceptions.md
R404). Proofs about a command cite these and unfold no command. -/

namespace Sys2Proof.Machine

/-! ### The checks, as propositions -/

theorem State.budgetOutOfRange_iff (s : State) :
    s.budgetOutOfRange = true ↔ s.bMax < s.budget.toNat := by
  simp [State.budgetOutOfRange]

theorem State.keyOk_iff (s : State) :
    s.keyOk = true ↔ 1 ≤ s.keyLen.toNat ∧ s.keyLen.toNat ≤ Config.keyMax := by
  simp [State.keyOk]

theorem State.regionOutOfRange_iff (s : State) :
    s.regionOutOfRange = true ↔ s.bMax < s.argOff.toNat + s.argLen.toNat := by
  simp [State.regionOutOfRange]

/-- ENC asks for a key that key_ok() refuses (R221). -/
theorem enc_key_check (enc : Bool) (s : State) :
    (enc && !s.keyOk) = true ↔ enc = true ∧ ¬ s.keyOk = true := by
  cases enc <;> cases s.keyOk <;> simp

/-! ### CRC and XOR -/

theorem crcCommand_cases (r : Ram) (s : State) :
    (s.regionOutOfRange = true ∧ crcCommand r s = finish .range s) ∨
    (¬ s.regionOutOfRange = true ∧ crcCommand r s = finish .ok { s with result := crc32 (s.region r) }) := by
  by_cases h : s.regionOutOfRange = true
  · exact .inl ⟨h, by simp only [crcCommand, if_pos h]⟩
  · exact .inr ⟨h, by simp only [crcCommand, if_neg h]⟩

theorem xorCommand_cases (r : Ram) (s : State) :
    (s.regionOutOfRange = true ∧ xorCommand r s = finish .range s) ∨
    (¬ s.regionOutOfRange = true ∧ ¬ s.keyOk = true ∧ xorCommand r s = finish .keyInvalid s) ∨
    (¬ s.regionOutOfRange = true ∧ s.keyOk = true ∧
      xorCommand r s = finish .ok (s.writeRam r s.argOff.toNat (keystream s.keyBytes (s.region r)))) := by
  by_cases h : s.regionOutOfRange = true
  · exact .inl ⟨h, by simp only [xorCommand, if_pos h]⟩
  · by_cases hk : s.keyOk = true
    · exact .inr (.inr ⟨h, hk, by simp only [xorCommand, if_neg h, hk, Bool.not_true, Bool.false_eq_true, if_false]⟩)
    · exact .inr (.inl ⟨h, hk, by simp only [xorCommand, if_neg h, hk, Bool.not_false, if_true]⟩)

/-! ### PLAN and FRAME -/

theorem planCommand_cases (s : State) :
    (s.budgetOutOfRange = true ∧ planCommand s = finish .configRange s) ∨
    (¬ s.budgetOutOfRange = true ∧ s.budget.toNat ≤ 8 ∧ planCommand s = finish .configTooSmall s) ∨
    (¬ s.budgetOutOfRange = true ∧ 8 < s.budget.toNat ∧ 65535 < s.plannedCount ∧
      planCommand s = finish .capacityExceeded s) ∨
    (¬ s.budgetOutOfRange = true ∧ 8 < s.budget.toNat ∧ s.plannedCount ≤ 65535 ∧
      planCommand s = finish .ok
        { s with
          result := BitVec.ofNat 32 s.plannedCount
          segTotal := BitVec.ofNat 16 s.plannedCount }) := by
  by_cases h : s.budgetOutOfRange = true
  · exact .inl ⟨h, by simp only [planCommand, if_pos h]⟩
  · by_cases hb : s.budget.toNat ≤ Config.headerSize
    · exact .inr (.inl ⟨h, hb, by simp only [planCommand, if_neg h, if_pos hb]⟩)
    · by_cases hc : Config.maxSegments < s.plannedCount
      · exact .inr (.inr (.inl ⟨h, Nat.lt_of_not_le hb, hc, by
          simp only [planCommand, if_neg h, if_neg hb, if_pos hc]⟩))
      · exact .inr (.inr (.inr ⟨h, Nat.lt_of_not_le hb, Nat.le_of_not_lt hc, by
          simp only [planCommand, if_neg h, if_neg hb, if_neg hc]⟩))

/-- What FRAME leaves when every check passes (R286). -/
def frameDone (enc : Bool) (s : State) : State :=
  finish .ok
    { emitDatagram (s.applyCipher enc (ser s.frameSegment)) s with
      segCrc := s.frameSegment.checksum
      result := s.frameSegment.checksum }

theorem frameCommand_cases (enc : Bool) (s : State) :
    (s.budgetOutOfRange = true ∧ frameCommand enc s = finish .configRange s) ∨
    (¬ s.budgetOutOfRange = true ∧ s.budget.toNat ≤ 8 ∧ frameCommand enc s = finish .configTooSmall s) ∨
    (¬ s.budgetOutOfRange = true ∧ 8 < s.budget.toNat ∧ s.maxPayload < s.blkLen.toNat ∧
      frameCommand enc s = finish .sliceTooLong s) ∨
    (¬ s.budgetOutOfRange = true ∧ 8 < s.budget.toNat ∧ s.blkLen.toNat ≤ s.maxPayload ∧
      (enc = true ∧ ¬ s.keyOk = true) ∧ frameCommand enc s = finish .keyInvalid s) ∨
    (¬ s.budgetOutOfRange = true ∧ 8 < s.budget.toNat ∧ s.blkLen.toNat ≤ s.maxPayload ∧
      ¬ (enc = true ∧ ¬ s.keyOk = true) ∧ frameCommand enc s = frameDone enc s) := by
  by_cases h : s.budgetOutOfRange = true
  · exact .inl ⟨h, by simp only [frameCommand, if_pos h]⟩
  · by_cases hb : s.budget.toNat ≤ Config.headerSize
    · exact .inr (.inl ⟨h, hb, by simp only [frameCommand, if_neg h, if_pos hb]⟩)
    · by_cases hs : s.maxPayload < s.blkLen.toNat
      · exact .inr (.inr (.inl ⟨h, Nat.lt_of_not_le hb, hs, by
          simp only [frameCommand, if_neg h, if_neg hb, if_pos hs]⟩))
      · by_cases hk : enc = true ∧ ¬ s.keyOk = true
        · exact .inr (.inr (.inr (.inl ⟨h, Nat.lt_of_not_le hb, Nat.le_of_not_lt hs, hk, by
            simp only [frameCommand, if_neg h, if_neg hb, if_neg hs,
              if_pos ((enc_key_check enc s).2 hk)]⟩)))
        · exact .inr (.inr (.inr (.inr ⟨h, Nat.lt_of_not_le hb, Nat.le_of_not_lt hs, hk, by
            simp only [frameCommand, if_neg h, if_neg hb, if_neg hs,
              if_neg (fun e => hk ((enc_key_check enc s).1 e)), frameDone]⟩)))

/-! ### SERIALIZE, DESERIALIZE, VERIFY -/

theorem serializeCommand_cases (enc : Bool) (s : State) :
    (s.budgetOutOfRange = true ∧ serializeCommand enc s = finish .configRange s) ∨
    (¬ s.budgetOutOfRange = true ∧ s.budget.toNat < 8 + s.blkLen.toNat ∧
      serializeCommand enc s = finish .bufferTooSmall s) ∨
    (¬ s.budgetOutOfRange = true ∧ 8 + s.blkLen.toNat ≤ s.budget.toNat ∧
      (enc = true ∧ ¬ s.keyOk = true) ∧ serializeCommand enc s = finish .keyInvalid s) ∨
    (¬ s.budgetOutOfRange = true ∧ 8 + s.blkLen.toNat ≤ s.budget.toNat ∧
      ¬ (enc = true ∧ ¬ s.keyOk = true) ∧
      serializeCommand enc s = finish .ok (emitDatagram (s.applyCipher enc s.serializeDatagram) s)) := by
  by_cases h : s.budgetOutOfRange = true
  · exact .inl ⟨h, by simp only [serializeCommand, if_pos h]⟩
  · by_cases hb : s.budget.toNat < Config.headerSize + s.blkLen.toNat
    · exact .inr (.inl ⟨h, hb, by simp only [serializeCommand, if_neg h, if_pos hb]⟩)
    · by_cases hk : enc = true ∧ ¬ s.keyOk = true
      · exact .inr (.inr (.inl ⟨h, Nat.le_of_not_lt hb, hk, by
          simp only [serializeCommand, if_neg h, if_neg hb,
            if_pos ((enc_key_check enc s).2 hk)]⟩))
      · exact .inr (.inr (.inr ⟨h, Nat.le_of_not_lt hb, hk, by
          simp only [serializeCommand, if_neg h, if_neg hb,
            if_neg (fun e => hk ((enc_key_check enc s).1 e))]⟩))

theorem deserializeCommand_cases (s : State) :
    (s.budgetOutOfRange = true ∧ deserializeCommand s = finish .configRange s) ∨
    (¬ s.budgetOutOfRange = true ∧ s.rxExtent < 8 ∧ deserializeCommand s = finish .bufferTooSmall s) ∨
    (¬ s.budgetOutOfRange = true ∧ 8 ≤ s.rxExtent ∧
      deserializeCommand s = finish .ok
        { recordSegment s.receivedSegment s with integrityOk := false, integrityValid := false }) := by
  by_cases h : s.budgetOutOfRange = true
  · exact .inl ⟨h, by simp only [deserializeCommand, if_pos h]⟩
  · by_cases hb : s.rxExtent < Config.headerSize
    · exact .inr (.inl ⟨h, hb, by simp only [deserializeCommand, if_neg h, if_pos hb]⟩)
    · exact .inr (.inr ⟨h, Nat.le_of_not_lt hb, by simp only [deserializeCommand, if_neg h, if_neg hb]⟩)

theorem verifyCommand_cases (s : State) :
    (s.bMax < 8 + s.blkLen.toNat ∧ verifyCommand s = finish .range s) ∨
    (8 + s.blkLen.toNat ≤ s.bMax ∧
      verifyCommand s = finish .ok (recordIntegrity (verifySegment s.verifiedSegment)
        { s with result :=
            segmentChecksum s.verifiedSegment.total s.verifiedSegment.index s.verifiedSegment.block })) := by
  by_cases h : s.bMax < Config.headerSize + s.blkLen.toNat
  · exact .inl ⟨h, by simp only [verifyCommand, if_pos h]⟩
  · exact .inr ⟨Nat.le_of_not_lt h, by simp only [verifyCommand, if_neg h]⟩

/-! ### RX and RELEASE -/

theorem deser_cases (p : List Byte) :
    (p.length < 8 ∧ deser p = none) ∨ (8 ≤ p.length ∧ deser p = some (parseSegment p)) := by
  by_cases h : p.length < Config.headerSize
  · exact .inl ⟨h, by simp only [deser, if_pos h]⟩
  · exact .inr ⟨Nat.le_of_not_lt h, by simp only [deser, if_neg h]⟩

/-- LEN of the slot before the append, or 0 for a new one: `base` of R326. -/
def appendBase (s : State) (j : Nat) (isNew : Bool) : Nat := if isNew then 0 else (s.slot j).len

theorem receiveInto_cases (j : Nat) (isNew : Bool) (g : Segment) (s : State) :
    (s.build.slotBytes.admits (appendBase s j isNew + g.block.length) = false ∧
      receiveInto j isNew g s = discardDatagram .accOverflow .accOverflow s) ∨
    (s.build.slotBytes.admits (appendBase s j isNew + g.block.length) = true ∧ g.index = g.total ∧
      receiveInto j isNew g s = finish .ok (enterDelivery j (appendSegment j isNew g s))) ∨
    (s.build.slotBytes.admits (appendBase s j isNew + g.block.length) = true ∧ g.index ≠ g.total ∧
      receiveInto j isNew g s = finish .ok (appendSegment j isNew g s)) := by
  unfold receiveInto appendBase
  by_cases h : s.build.slotBytes.admits ((if isNew then 0 else (s.slot j).len) + g.block.length) = true
  · by_cases hf : g.index = g.total
    · exact .inr (.inl ⟨h, hf, by simp [h, hf, isFinal]⟩)
    · exact .inr (.inr ⟨h, hf, by simp [h, hf, isFinal]⟩)
  · simp only [Bool.not_eq_true] at h
    exact .inl ⟨h, by simp [h]⟩

theorem receiveSegment_cases (g : Segment) (s : State) :
    (∃ j, lookup s.slots s.peerKey = some j ∧ receiveSegment g s = receiveInto j false g s) ∨
    (lookup s.slots s.peerKey = none ∧
      ∃ j, alloc s.build.peerSlots s.slots = some j ∧ receiveSegment g s = receiveInto j true g s) ∨
    (lookup s.slots s.peerKey = none ∧ alloc s.build.peerSlots s.slots = none ∧
      receiveSegment g s = discardDatagram .peerTableFull .peerTableFull s) := by
  unfold receiveSegment
  cases hl : lookup s.slots s.peerKey with
  | some j => exact .inl ⟨j, rfl, rfl⟩
  | none =>
    cases ha : alloc s.build.peerSlots s.slots with
    | some j => exact .inr (.inl ⟨rfl, j, rfl, rfl⟩)
    | none => exact .inr (.inr ⟨rfl, rfl, rfl⟩)

theorem rxCommand_cases (enc : Bool) (s : State) :
    (s.deliver = true ∧ rxCommand enc s = finish .deliverPending s) ∨
    (s.deliver = false ∧ s.budgetOutOfRange = true ∧ rxCommand enc s = finish .configRange s) ∨
    (s.deliver = false ∧ ¬ s.budgetOutOfRange = true ∧ (enc = true ∧ ¬ s.keyOk = true) ∧
      rxCommand enc s = finish .keyInvalid s) ∨
    (s.deliver = false ∧ ¬ s.budgetOutOfRange = true ∧ ¬ (enc = true ∧ ¬ s.keyOk = true) ∧
      (s.datagram enc).length < 8 ∧
      rxCommand enc s = finish .bufferTooSmall
        { s with cntRx := s.cntRx + 1, cntShort := s.cntShort + 1, rxInfo := RxInfo.zero }) ∨
    (s.deliver = false ∧ ¬ s.budgetOutOfRange = true ∧ ¬ (enc = true ∧ ¬ s.keyOk = true) ∧
      8 ≤ (s.datagram enc).length ∧
      rxCommand enc s = receiveSegment (parseSegment (s.datagram enc)) { s with cntRx := s.cntRx + 1 }) := by
  by_cases hd : s.deliver = true
  · exact .inl ⟨hd, by simp only [rxCommand, if_pos hd]⟩
  · have hd' : s.deliver = false := by simpa using hd
    by_cases h : s.budgetOutOfRange = true
    · exact .inr (.inl ⟨hd', h, by simp only [rxCommand, if_neg hd, if_pos h]⟩)
    · by_cases hk : enc = true ∧ ¬ s.keyOk = true
      · exact .inr (.inr (.inl ⟨hd', h, hk, by
          simp only [rxCommand, if_neg hd, if_neg h, if_pos ((enc_key_check enc s).2 hk)]⟩))
      · have hk' := fun e => hk ((enc_key_check enc s).1 e)
        rcases deser_cases (s.datagram enc) with ⟨hl, he⟩ | ⟨hl, he⟩
        · exact .inr (.inr (.inr (.inl ⟨hd', h, hk, hl, by
            simp only [rxCommand, if_neg hd, if_neg h, if_neg hk', he]⟩)))
        · exact .inr (.inr (.inr (.inr ⟨hd', h, hk, hl, by
            simp only [rxCommand, if_neg hd, if_neg h, if_neg hk', he]⟩)))

theorem releaseCommand_cases (s : State) :
    (s.deliver = false ∧ releaseCommand s = finish .notDelivering s) ∨
    (s.deliver = true ∧
      releaseCommand s = finish .ok { s with slots := freeSlot s.slots s.outSlot, deliver := false }) := by
  cases h : s.deliver <;> simp [releaseCommand, h]

end Sys2Proof.Machine
end

