-- ==== Sys2Proof/Laws/PerInstr.lean ====
section
/-! SUPPORT. The family of statements about every command as syntax: its encoding passes every check of
spec/30_encoding.md R156, one lemma per command. -/

namespace Sys2Proof.Laws.EncodesWellFormed

/-- The command's fields are legal, and its word has exactly those fields (R150, R159). -/
def Statement (i : Instr) : Prop :=
  i.fields.wellFormed = true ∧ fieldsOf (encode i) = i.fields

theorem nop : Statement .nop := by unfold Statement; decide
theorem crcRx : Statement .crcRx := by unfold Statement; decide
theorem crcTx : Statement .crcTx := by unfold Statement; decide
theorem crcPb : Statement .crcPb := by unfold Statement; decide
theorem xorRx : Statement .xorRx := by unfold Statement; decide
theorem xorTx : Statement .xorTx := by unfold Statement; decide
theorem xorPb : Statement .xorPb := by unfold Statement; decide
theorem plan : Statement .plan := by unfold Statement; decide
theorem frame : Statement .frame := by unfold Statement; decide
theorem frameEnc : Statement .frameEnc := by unfold Statement; decide
theorem serialize : Statement .serialize := by unfold Statement; decide
theorem serializeEnc : Statement .serializeEnc := by unfold Statement; decide
theorem deserialize : Statement .deserialize := by unfold Statement; decide
theorem verify : Statement .verify := by unfold Statement; decide
theorem rx : Statement .rx := by unfold Statement; decide
theorem rxDec : Statement .rxDec := by unfold Statement; decide
theorem release : Statement .release := by unfold Statement; decide

end Sys2Proof.Laws.EncodesWellFormed
end

