-- ==== Sys2Proof/Laws/Step.lean ====
section
/-! SUPPORT. What one step can do (spec/20_memory.md R130, R135): the inversion lemmas that invariants are derived from. -/

namespace Sys2Proof.Machine

/-- The state in which a command ends, before a pending reset (R402): every command answers a next state. -/
def commandResult (s : State) : Instr → State
  | .nop => finish .ok s
  | .crcRx => crcCommand .rxbuf s
  | .crcTx => crcCommand .txbuf s
  | .crcPb => crcCommand .pbuf s
  | .xorRx => xorCommand .rxbuf s
  | .xorTx => xorCommand .txbuf s
  | .xorPb => xorCommand .pbuf s
  | .plan => planCommand s
  | .frame => frameCommand false s
  | .frameEnc => frameCommand true s
  | .serialize => serializeCommand false s
  | .serializeEnc => serializeCommand true s
  | .deserialize => deserializeCommand s
  | .verify => verifyCommand s
  | .rx => rxCommand false s
  | .rxDec => rxCommand true s
  | .release => releaseCommand s

/-- Every command answers a next state. -/
theorem exec_eq_commandResult (i : Instr) (s : State) : exec i s = .next (commandResult s i) := by
  cases i <;> rfl

/-- `t` has the build, the port's fields, PENDING, RESET_PENDING and the host's operand registers of `s`: what no
command writes (the write sets of spec/70_reset_and_hazards.md R460). -/
structure HostPartKept (s t : State) : Prop where
  build : t.build = s.build
  arrivals : t.arrivals = s.arrivals
  replies : t.replies = s.replies
  freeReads : t.freeReads = s.freeReads
  pending : t.pending = s.pending
  resetPending : t.resetPending = s.resetPending
  argOff : t.argOff = s.argOff
  argLen : t.argLen = s.argLen
  irqEnable : t.irqEnable = s.irqEnable
  budget : t.budget = s.budget
  keyLen : t.keyLen = s.keyLen
  payloadLen : t.payloadLen = s.payloadLen
  rxLen : t.rxLen = s.rxLen
  peerKey0 : t.peerKey0 = s.peerKey0
  peerKey1 : t.peerKey1 = s.peerKey1
  peerKey2 : t.peerKey2 = s.peerKey2
  peerKey3 : t.peerKey3 = s.peerKey3
  slotSel : t.slotSel = s.slotSel

theorem hostPartKept_finish {s t : State} (code : ErrCode) (h : HostPartKept s t) : HostPartKept s (finish code t) :=
  ⟨h.1, h.2, h.3, h.4, h.5, h.6, h.7, h.8, h.9, h.10, h.11, h.12, h.13, h.14, h.15, h.16,
    h.17, h.18⟩

theorem hostPartKept_refl (s : State) : HostPartKept s s :=
  ⟨rfl, rfl, rfl, rfl, rfl, rfl, rfl, rfl, rfl, rfl, rfl, rfl, rfl, rfl, rfl, rfl, rfl, rfl⟩

/-- The same peer. -/
theorem HostPartKept.peerKey {s t : State} (h : HostPartKept s t) : t.peerKey = s.peerKey := by
  simp only [State.peerKey, h.peerKey0, h.peerKey1, h.peerKey2, h.peerKey3]

theorem HostPartKept.trans {s t u : State} (h : HostPartKept s t) (k : HostPartKept t u) : HostPartKept s u :=
  ⟨k.1.trans h.1, k.2.trans h.2, k.3.trans h.3, k.4.trans h.4, k.5.trans h.5, k.6.trans h.6, k.7.trans h.7,
    k.8.trans h.8, k.9.trans h.9, k.10.trans h.10, k.11.trans h.11, k.12.trans h.12, k.13.trans h.13,
    k.14.trans h.14, k.15.trans h.15, k.16.trans h.16, k.17.trans h.17, k.18.trans h.18⟩

theorem hostPartKept_discardDatagram (f : FaultBit) (code : ErrCode) (s : State) :
    HostPartKept s (discardDatagram f code s) :=
  ⟨rfl, rfl, rfl, rfl, rfl, rfl, rfl, rfl, rfl, rfl, rfl, rfl, rfl, rfl, rfl, rfl, rfl, rfl⟩

theorem hostPartKept_recordSegment (g : Segment) (s : State) : HostPartKept s (recordSegment g s) :=
  ⟨rfl, rfl, rfl, rfl, rfl, rfl, rfl, rfl, rfl, rfl, rfl, rfl, rfl, rfl, rfl, rfl, rfl, rfl⟩

theorem hostPartKept_recordIntegrity (ok : Bool) (s : State) : HostPartKept s (recordIntegrity ok s) :=
  ⟨rfl, rfl, rfl, rfl, rfl, rfl, rfl, rfl, rfl, rfl, rfl, rfl, rfl, rfl, rfl, rfl, rfl, rfl⟩

theorem hostPartKept_enterDelivery (j : Nat) (s : State) : HostPartKept s (enterDelivery j s) :=
  ⟨rfl, rfl, rfl, rfl, rfl, rfl, rfl, rfl, rfl, rfl, rfl, rfl, rfl, rfl, rfl, rfl, rfl, rfl⟩

theorem hostPartKept_appendSegment (j : Nat) (isNew : Bool) (g : Segment) (s : State) :
    HostPartKept s (appendSegment j isNew g s) := by
  have start (slots : List Slot) (r c : Word) (x : RxInfo) :
      HostPartKept s { s with slots := slots, result := r, cntBadCrc := c, rxInfo := x } :=
    ⟨rfl, rfl, rfl, rfl, rfl, rfl, rfl, rfl, rfl, rfl, rfl, rfl, rfl, rfl, rfl, rfl, rfl, rfl⟩
  exact ((start _ _ _ _).trans (hostPartKept_recordSegment g _)).trans (hostPartKept_recordIntegrity _ _)

theorem hostPartKept_receiveInto (j : Nat) (isNew : Bool) (g : Segment) (s : State) :
    HostPartKept s (receiveInto j isNew g s) := by
  rcases receiveInto_cases j isNew g s with ⟨-, e⟩ | ⟨-, -, e⟩ | ⟨-, -, e⟩ <;> rw [e]
  · exact hostPartKept_discardDatagram _ _ s
  · exact hostPartKept_finish _ ((hostPartKept_appendSegment j isNew g s).trans (hostPartKept_enterDelivery j _))
  · exact hostPartKept_finish _ (hostPartKept_appendSegment j isNew g s)

theorem hostPartKept_receiveSegment (g : Segment) (s : State) : HostPartKept s (receiveSegment g s) := by
  rcases receiveSegment_cases g s with ⟨j, -, e⟩ | ⟨-, j, -, e⟩ | ⟨-, -, e⟩ <;> rw [e]
  · exact hostPartKept_receiveInto _ _ _ _
  · exact hostPartKept_receiveInto _ _ _ _
  · exact hostPartKept_discardDatagram _ _ s

theorem hostPartKept_rx (enc : Bool) (s : State) : HostPartKept s (rxCommand enc s) := by
  have consumed (c : Word) : HostPartKept s { s with cntRx := c } :=
    ⟨rfl, rfl, rfl, rfl, rfl, rfl, rfl, rfl, rfl, rfl, rfl, rfl, rfl, rfl, rfl, rfl, rfl, rfl⟩
  have short (c d : Word) (x : RxInfo) : HostPartKept s { s with cntRx := c, cntShort := d, rxInfo := x } :=
    ⟨rfl, rfl, rfl, rfl, rfl, rfl, rfl, rfl, rfl, rfl, rfl, rfl, rfl, rfl, rfl, rfl, rfl, rfl⟩
  rcases rxCommand_cases enc s with ⟨-, e⟩ | ⟨-, -, e⟩ | ⟨-, -, -, e⟩ | ⟨-, -, -, -, e⟩ | ⟨-, -, -, -, e⟩ <;> rw [e]
  · exact hostPartKept_finish _ (hostPartKept_refl s)
  · exact hostPartKept_finish _ (hostPartKept_refl s)
  · exact hostPartKept_finish _ (hostPartKept_refl s)
  · exact hostPartKept_finish _ (short _ _ _)
  · exact (consumed _).trans (hostPartKept_receiveSegment _ _)

theorem hostPartKept_emitDatagram (d : List Byte) (s : State) : HostPartKept s (emitDatagram d s) :=
  ⟨rfl, rfl, rfl, rfl, rfl, rfl, rfl, rfl, rfl, rfl, rfl, rfl, rfl, rfl, rfl, rfl, rfl, rfl⟩

theorem hostPartKept_writeRam (r : Ram) (o : Nat) (d : List Byte) (s : State) :
    HostPartKept s (s.writeRam r o d) :=
  ⟨rfl, rfl, rfl, rfl, rfl, rfl, rfl, rfl, rfl, rfl, rfl, rfl, rfl, rfl, rfl, rfl, rfl, rfl⟩

theorem hostPartKept_frame (enc : Bool) (s : State) : HostPartKept s (frameCommand enc s) := by
  have done (d : List Byte) (c : Word) : HostPartKept s { emitDatagram d s with segCrc := c, result := c } :=
    ⟨rfl, rfl, rfl, rfl, rfl, rfl, rfl, rfl, rfl, rfl, rfl, rfl, rfl, rfl, rfl, rfl, rfl, rfl⟩
  rcases frameCommand_cases enc s with ⟨-, e⟩ | ⟨-, -, e⟩ | ⟨-, -, -, e⟩ | ⟨-, -, -, -, e⟩ | ⟨-, -, -, -, e⟩ <;> rw [e]
  all_goals try exact hostPartKept_finish _ (hostPartKept_refl s)
  exact hostPartKept_finish _ (done _ _)

theorem hostPartKept_serialize (enc : Bool) (s : State) : HostPartKept s (serializeCommand enc s) := by
  rcases serializeCommand_cases enc s with ⟨-, e⟩ | ⟨-, -, e⟩ | ⟨-, -, -, e⟩ | ⟨-, -, -, e⟩ <;> rw [e]
  all_goals try exact hostPartKept_finish _ (hostPartKept_refl s)
  exact hostPartKept_finish _ (hostPartKept_emitDatagram _ s)

theorem hostPartKept_crc (r : Ram) (s : State) : HostPartKept s (crcCommand r s) := by
  have done (c : Word) : HostPartKept s { s with result := c } :=
    ⟨rfl, rfl, rfl, rfl, rfl, rfl, rfl, rfl, rfl, rfl, rfl, rfl, rfl, rfl, rfl, rfl, rfl, rfl⟩
  rcases crcCommand_cases r s with ⟨-, e⟩ | ⟨-, e⟩ <;> rw [e]
  · exact hostPartKept_finish _ (hostPartKept_refl s)
  · exact hostPartKept_finish _ (done _)

theorem hostPartKept_xor (r : Ram) (s : State) : HostPartKept s (xorCommand r s) := by
  rcases xorCommand_cases r s with ⟨-, e⟩ | ⟨-, -, e⟩ | ⟨-, -, e⟩ <;> rw [e]
  all_goals try exact hostPartKept_finish _ (hostPartKept_refl s)
  exact hostPartKept_finish _ (hostPartKept_writeRam _ _ _ s)

theorem hostPartKept_plan (s : State) : HostPartKept s (planCommand s) := by
  have done (c : Word) (t : Half) : HostPartKept s { s with result := c, segTotal := t } :=
    ⟨rfl, rfl, rfl, rfl, rfl, rfl, rfl, rfl, rfl, rfl, rfl, rfl, rfl, rfl, rfl, rfl, rfl, rfl⟩
  rcases planCommand_cases s with ⟨-, e⟩ | ⟨-, -, e⟩ | ⟨-, -, -, e⟩ | ⟨-, -, -, e⟩ <;> rw [e]
  all_goals try exact hostPartKept_finish _ (hostPartKept_refl s)
  exact hostPartKept_finish _ (done _ _)

theorem hostPartKept_deserialize (s : State) : HostPartKept s (deserializeCommand s) := by
  have done (g : Segment) :
      HostPartKept s { recordSegment g s with integrityOk := false, integrityValid := false } :=
    ⟨rfl, rfl, rfl, rfl, rfl, rfl, rfl, rfl, rfl, rfl, rfl, rfl, rfl, rfl, rfl, rfl, rfl, rfl⟩
  rcases deserializeCommand_cases s with ⟨-, e⟩ | ⟨-, -, e⟩ | ⟨-, -, e⟩ <;> rw [e]
  all_goals try exact hostPartKept_finish _ (hostPartKept_refl s)
  exact hostPartKept_finish _ (done _)

theorem hostPartKept_verify (s : State) : HostPartKept s (verifyCommand s) := by
  have done (ok : Bool) (c : Word) : HostPartKept s (recordIntegrity ok { s with result := c }) :=
    ⟨rfl, rfl, rfl, rfl, rfl, rfl, rfl, rfl, rfl, rfl, rfl, rfl, rfl, rfl, rfl, rfl, rfl, rfl⟩
  rcases verifyCommand_cases s with ⟨-, e⟩ | ⟨-, e⟩ <;> rw [e]
  · exact hostPartKept_finish _ (hostPartKept_refl s)
  · exact hostPartKept_finish _ (done _ _)

theorem hostPartKept_release (s : State) : HostPartKept s (releaseCommand s) := by
  have done (slots : List Slot) (d : Bool) : HostPartKept s { s with slots := slots, deliver := d } :=
    ⟨rfl, rfl, rfl, rfl, rfl, rfl, rfl, rfl, rfl, rfl, rfl, rfl, rfl, rfl, rfl, rfl, rfl, rfl⟩
  rcases releaseCommand_cases s with ⟨-, e⟩ | ⟨-, e⟩ <;> rw [e]
  · exact hostPartKept_finish _ (hostPartKept_refl s)
  · exact hostPartKept_finish _ (done _ _)

/-- No command writes the host's part of the state. -/
theorem commandResult_hostPart (i : Instr) (s : State) : HostPartKept s (commandResult s i) := by
  cases i
  case nop => exact hostPartKept_finish _ (hostPartKept_refl s)
  case crcRx | crcTx | crcPb => exact hostPartKept_crc _ s
  case xorRx | xorTx | xorPb => exact hostPartKept_xor _ s
  case plan => exact hostPartKept_plan s
  case frame | frameEnc => exact hostPartKept_frame _ s
  case serialize | serializeEnc => exact hostPartKept_serialize _ s
  case deserialize => exact hostPartKept_deserialize s
  case verify => exact hostPartKept_verify s
  case rx | rxDec => exact hostPartKept_rx _ s
  case release => exact hostPartKept_release s

/-- What the ENGINE's step can do: nothing in IDLE, else the pending command or the illegal one. -/
theorem engineStep_cases (s : State) :
    (s.engState = .idle ∧ engineStep s = .next s) ∨
    (s.engState = .busy ∧ ∃ i, decode s.pending = .ok i ∧
      engineStep s = .next (applyPendingReset (commandResult s i))) ∨
    (s.engState = .busy ∧ ∃ e, decode s.pending = .error e ∧
      engineStep s = .next (applyPendingReset (illegalCommand s))) := by
  unfold engineStep
  cases hs : s.engState with
  | idle => exact .inl ⟨rfl, rfl⟩
  | busy =>
    cases hd : decode s.pending with
    | ok i => exact .inr (.inl ⟨rfl, i, rfl, by simp [exec_eq_commandResult, endEngineStep]⟩)
    | error e => exact .inr (.inr ⟨rfl, e, rfl, rfl⟩)

/-- A RAM byte range that the port reaches is addressed by its base and lies whole within the RAM (R106). -/
theorem locate_ram {b : Build} {addr : Word} {width : AccessWidth} {r : Ram} {o : Nat}
    (h : locate b addr width = some (.ram r o)) : addr.toNat = r.base + o ∧ o + width.bytes ≤ r.size b := by
  have target (x : Ram) (off : Nat) (e : ramTarget b x off width.bytes = some (.ram r o)) :
      x = r ∧ off = o ∧ o + width.bytes ≤ r.size b := by
    unfold ramTarget at e
    split at e
    · cases e; exact ⟨rfl, rfl, by assumption⟩
    · cases e
  unfold locate at h
  dsimp only at h
  split at h
  · cases h
  · split at h
    · split at h
      · cases hc : Csr.atOffset addr.toNat <;> rw [hc] at h <;> cases h
      · cases h
    · split at h
      · obtain ⟨rfl, rfl, e⟩ := target _ _ h; exact ⟨by simp only [Ram.base]; omega, e⟩
      · split at h
        · cases h
        · split at h
          · obtain ⟨rfl, rfl, e⟩ := target _ _ h; exact ⟨by simp only [Ram.base]; omega, e⟩
          · split at h
            · obtain ⟨rfl, rfl, e⟩ := target _ _ h; exact ⟨by simp only [Ram.base]; omega, e⟩
            · split at h
              · obtain ⟨rfl, rfl, e⟩ := target _ _ h; exact ⟨by simp only [Ram.base]; omega, e⟩
              · split at h
                · cases h
                · split at h <;> cases h

/-- What a host write that answers a next state has done (R112, R113, R115, R462). -/
theorem hostWrite_cases {addr : Word} {width : AccessWidth} {v : Word} {s t : State}
    (h : hostWrite addr width v s = .next t) :
    ((locate s.build addr width = none ∨
        ∃ o, locate s.build addr width = some (.outwin o) ∧ s.footprint.writesOutwin = false) ∧
      t = raiseFault .busErr s) ∨
    (∃ r, locate s.build addr width = some (.csr r) ∧ s.footprint.hazardCsr r = false ∧ t = s.writeCsr v r) ∨
    (∃ r o, locate s.build addr width = some (.ram r o) ∧
      (∀ i, i < width.bytes → s.footprint.hazardByte r (o + i) = false) ∧
      t = s.writeRam r o (laneBytes v width.bytes)) := by
  unfold hostWrite at h
  split at h
  · next hl => cases h; exact .inl ⟨.inl hl, rfl⟩
  · next o hl =>
    split at h
    · exact absurd h (by simp)
    · next hh => cases h; exact .inl ⟨.inr ⟨o, hl, by simpa using hh⟩, rfl⟩
  · next r hl =>
    split at h
    · exact absurd h (by simp)
    · next hh => cases h; exact .inr (.inl ⟨r, hl, by simpa using hh, rfl⟩)
  · next r o hl =>
    split at h
    · exact absurd h (by simp)
    · next hh =>
      cases h
      refine .inr (.inr ⟨r, o, hl, fun i hi => ?_, rfl⟩)
      simpa [List.any_eq_true, hi] using fun e => hh (List.any_eq_true.2 ⟨i, by simp [hi], e⟩)

/-- What a host read can do: raise BUS_ERR, or answer and change no state of the block (R110, R115, R117). -/
theorem hostRead_cases (addr : Word) (width : AccessWidth) (s : State) :
    (locate s.build addr width = none ∧ hostRead addr width s = (raiseFault .busErr s).reply 0) ∨
    (locate s.build addr width ≠ none ∧ ∃ v, hostRead addr width s = s.reply v ∨ hostRead addr width s = s.replyFree v) := by
  unfold hostRead
  cases hl : locate s.build addr width with
  | none => exact .inl ⟨rfl, rfl⟩
  | some g =>
    refine .inr ⟨by simp, ?_⟩
    cases g with
    | csr r =>
      by_cases hf : s.footprint.freeCsr r = true
      · exact ⟨s.freeWord, .inr (by simp only [hf, if_true])⟩
      · exact ⟨s.readCsr r, .inl (by simp only [hf]; rfl)⟩
    | ram r o =>
      simp only [readWindow]
      split
      · exact ⟨_, .inr rfl⟩
      · exact ⟨_, .inl rfl⟩
    | outwin o =>
      simp only [readWindow]
      split
      · exact ⟨_, .inr rfl⟩
      · exact ⟨_, .inl rfl⟩

/-- What one step that answers a next state has done. -/
theorem step_cases {s t : State} (h : step s = .next t) :
    (s.arrivals = [] ∧ engineStep s = .next t) ∨
    (∃ rest, s.arrivals = .engine :: rest ∧ engineStep { s with arrivals := rest } = .next t) ∨
    (∃ rest, s.arrivals = .hardReset :: rest ∧ t = { s with arrivals := rest : State }.resetBlock) ∨
    (∃ a w rest, s.arrivals = .read a w :: rest ∧ t = hostRead a w { s with arrivals := rest }) ∨
    (∃ a w v rest, s.arrivals = .write a w v :: rest ∧
      hostWrite a w v { s with arrivals := rest } = .next t) := by
  unfold step at h
  split at h
  · next ha => exact .inl ⟨ha, h⟩
  · next e rest ha =>
    cases e with
    | read a w =>
      simp only [handleEvent, Host.Outcome.next.injEq] at h
      exact .inr (.inr (.inr (.inl ⟨a, w, rest, ha, h.symm⟩)))
    | write a w v => exact .inr (.inr (.inr (.inr ⟨a, w, v, rest, ha, h⟩)))
    | engine => exact .inr (.inl ⟨rest, ha, h⟩)
    | hardReset =>
      simp only [handleEvent, Host.Outcome.next.injEq] at h
      exact .inr (.inr (.inl ⟨rest, ha, h.symm⟩))

end Sys2Proof.Machine
end

