-- ==== Sys2Proof/Laws/Port.lean ====
section
/-! SUPPORT. The host port, said once: the footprint in force, the byte lanes of a reply, and what a read and a write
of each region do (spec/20_memory.md R102, R110 to R115; spec/70_reset_and_hazards.md R460 to R462). -/

namespace Sys2Proof.Machine

/-- In IDLE no command is running (R460). -/
theorem footprint_idle {s : State} (h : s.engState = .idle) : s.footprint = Footprint.none := by
  simp [State.footprint, h]

/-- While BUSY the footprint is the running command's row of R460. -/
theorem footprint_busy {s : State} {i : Instr} (h : s.engState = .busy) (hd : decode s.pending = .ok i) :
    s.footprint = instrFootprint s i := by
  simp [State.footprint, h, hd]

/-- Only RX, RX.dec and RELEASE write OUTWIN (R460). -/
theorem instrFootprint_writesOutwin (s : State) (i : Instr) :
    (instrFootprint s i).writesOutwin = decide (i ∈ [Instr.rx, .rxDec, .release]) := by
  cases i <;> rfl

/-- OUTWIN is in no write set unless RX, RX.dec or RELEASE is running. -/
theorem footprint_writesOutwin_eq_false {s : State}
    (h : s.engState = .busy → ∀ i ∈ [Instr.rx, .rxDec, .release], decode s.pending ≠ .ok i) :
    s.footprint.writesOutwin = false := by
  cases hs : s.engState with
  | idle => rw [footprint_idle hs]; rfl
  | busy =>
    cases hd : decode s.pending with
    | error e => simp [State.footprint, hs, hd, Footprint.none]
    | ok i =>
      rw [footprint_busy hs hd, instrFootprint_writesOutwin]
      exact decide_eq_false fun hi => h hs i hi hd

/-- Byte lane k of a word built from bytes (R102). -/
theorem extractLsb'_laneWord (bs : List Byte) {k : Nat} (h : k < 4) :
    (laneWord bs).extractLsb' (8 * k) 8 = byteAt bs k := by
  have part (a b c d : Byte) : ∀ k : Fin 4,
      (a ++ b ++ c ++ d).extractLsb' (8 * k.1) 8 = [d, c, b, a].getD k.1 0 := by
    intro k
    apply BitVec.eq_of_getElem_eq
    intro j hj
    match k with
    | 0 | 1 | 2 | 3 => simp; grind
  match k, h with
  | 0, _ => exact part _ _ _ _ 0
  | 1, _ => exact part _ _ _ _ 1
  | 2, _ => exact part _ _ _ _ 2
  | 3, _ => exact part _ _ _ _ 3

/-- What a window read answers: its byte lanes, and whether it took a free value (R102, R111, R461). -/
theorem readWindow_spec (s : State) (n : Nat) (value : Nat → Byte) (free : Nat → Bool) :
    ∃ a : Word,
      readWindow s n value free = { s with
        replies := a :: s.replies
        freeReads := if (List.range n).any free then s.freeReads + 1 else s.freeReads } ∧
      ∀ k, k < 4 → a.extractLsb' (8 * k) 8 =
        if k < n then (if free k then lane (Config.freeRead s.freeReads) k else value k) else 0 := by
  refine ⟨laneWord ((List.range n).map fun i => if free i then lane s.freeWord i else value i), ?_, fun k hk => ?_⟩
  · unfold readWindow
    dsimp only
    split <;> rfl
  · rw [extractLsb'_laneWord _ hk, byteAt]
    by_cases h : k < n
    · simp [h, State.freeWord]
    · simp [h]

/-- A host read of a register (R110, R461). -/
theorem hostRead_csr {s : State} {addr : Word} {w : AccessWidth} {r : Csr}
    (h : locate s.build addr w = some (.csr r)) :
    hostRead addr w s = if s.footprint.freeCsr r then s.replyFree s.freeWord else s.reply (s.readCsr r) := by
  simp [hostRead, h]

/-- A host read of a RAM window (R111, R461). -/
theorem hostRead_ram {s : State} {addr : Word} {w : AccessWidth} {r : Ram} {o : Nat}
    (h : locate s.build addr w = some (.ram r o)) :
    hostRead addr w s =
      readWindow s w.bytes (fun i => s.ram r (o + i)) (fun i => s.footprint.freeByte r (o + i)) := by
  simp [hostRead, h]

/-- A host read of OUTWIN (R114, R461). -/
theorem hostRead_outwin {s : State} {addr : Word} {w : AccessWidth} {o : Nat}
    (h : locate s.build addr w = some (.outwin o)) :
    hostRead addr w s = readWindow s w.bytes (fun i => s.outByte (o + i)) (fun _ => s.footprint.writesOutwin) := by
  simp [hostRead, h]

/-- A host write of a register (R112, R462). -/
theorem hostWrite_csr {s : State} {addr v : Word} {w : AccessWidth} {r : Csr}
    (h : locate s.build addr w = some (.csr r)) :
    hostWrite addr w v s =
      if s.footprint.hazardCsr r then .fault .hostHazard else .next (s.writeCsr v r) := by
  simp [hostWrite, h]

/-- A host write of a RAM window (R113, R462). -/
theorem hostWrite_ram {s : State} {addr v : Word} {w : AccessWidth} {r : Ram} {o : Nat}
    (h : locate s.build addr w = some (.ram r o)) :
    hostWrite addr w v s =
      if (List.range w.bytes).any (fun i => s.footprint.hazardByte r (o + i)) then .fault .hostHazard
      else .next (s.writeRam r o (laneBytes v w.bytes)) := by
  simp [hostWrite, h]

/-- A host write of OUTWIN (R114, R462). -/
theorem hostWrite_outwin {s : State} {addr v : Word} {w : AccessWidth} {o : Nat}
    (h : locate s.build addr w = some (.outwin o)) :
    hostWrite addr w v s =
      if s.footprint.writesOutwin then .fault .hostHazard else .next (raiseFault .busErr s) := by
  simp [hostWrite, h]

/-- A byte lies in a range. -/
theorem RamRange.holds_iff (g : RamRange) (r : Ram) (o : Nat) :
    g.holds r o = true ↔ g.ram = r ∧ g.off ≤ o ∧ o < g.off + g.len := by
  simp [RamRange.holds, and_assoc]

/-- An access of n bytes at o meets a range when the two intervals overlap (R461, R462). -/
theorem any_holds_iff (gs : List RamRange) (r : Ram) (o : Nat) {n : Nat} (hn : 0 < n) :
    ((List.range n).any fun i => gs.any fun g => g.holds r (o + i)) = true ↔
      ∃ g ∈ gs, g.ram = r ∧ 0 < g.len ∧ g.off < o + n ∧ o < g.off + g.len := by
  simp only [List.any_eq_true, List.mem_range, RamRange.holds_iff]
  constructor
  · rintro ⟨i, hi, g, hg, hr, h1, h2⟩
    exact ⟨g, hg, hr, by omega, by omega, by omega⟩
  · rintro ⟨g, hg, hr, h0, h1, h2⟩
    exact ⟨g.off - o, by omega, g, hg, hr, by omega, by omega⟩

end Sys2Proof.Machine
end

