-- ==== Sys2Proof/Laws/Table.lean ====
section
/-! SUPPORT. The ACC table: slots after an update, and what `alloc` and `lookup` name (spec/44_reassembly.md R322, R323). -/

namespace Sys2Proof.Machine

@[simp] theorem length_freeSlot (slots : List Slot) (j : Nat) : (freeSlot slots j).length = slots.length := by
  simp [freeSlot]

/-- Slot i after slot j is written (R326). -/
theorem getD_putSlot (slots : List Slot) (j i : Nat) (x : Slot) (h : j ≤ slots.length) :
    (putSlot slots j x).getD i Slot.free = if i = j then x else slots.getD i Slot.free := by
  unfold putSlot
  by_cases hj : j < slots.length
  · rw [if_pos hj]
    by_cases hi : i = j
    · subst hi; simp [hj]
    · simp [hi, List.getD, Ne.symm hi]
  · have hj' : j = slots.length := by omega
    rw [if_neg hj]
    by_cases hi : i = j
    · subst hi; simp [hj', List.getD]
    · rw [if_neg hi]
      simp only [List.getD, List.getElem?_append]
      by_cases hlt : i < slots.length
      · simp [hlt]
      · have : i - slots.length ≠ 0 := by omega
        simp [hlt, this]

/-- Slot i after slot j is freed (R337). -/
theorem getD_freeSlot (slots : List Slot) (j i : Nat) :
    (freeSlot slots j).getD i Slot.free =
      if i = j ∧ i < slots.length then (slots.getD i Slot.free).erase else slots.getD i Slot.free := by
  unfold freeSlot
  by_cases hi : i < slots.length
  · by_cases hij : i = j
    · subst hij; simp [List.getD, hi]
    · simp [List.getD, hij, Ne.symm hij]
  · simp [List.getD, hi]

/-- What `lookup` answers is a valid slot of that key in the table. -/
theorem lookup_some {slots : List Slot} {k : PeerKey} {j : Nat} (h : lookup slots k = some j) :
    ∃ hj : j < slots.length, slots[j].valid = true ∧ slots[j].key = k := by
  unfold lookup at h
  rw [List.findIdx?_eq_some_iff_getElem] at h
  obtain ⟨hj, hp, -⟩ := h
  exact ⟨hj, by simpa using hp⟩

/-- When `lookup` answers none, no valid slot has that key. -/
theorem lookup_none {slots : List Slot} {k : PeerKey} (h : lookup slots k = none) :
    ∀ sl ∈ slots, sl.valid = true → sl.key ≠ k := by
  unfold lookup at h
  rw [List.findIdx?_eq_none_iff] at h
  intro sl hsl hv hk
  simpa [hv, hk] using h sl hsl

/-- What `alloc` answers: a free slot of the table, or the number just past an unbounded one. -/
theorem alloc_some {limit : Limit} {slots : List Slot} {j : Nat} (h : alloc limit slots = some j) :
    (∃ hj : j < slots.length, slots[j].valid = false) ∨ (limit = .unbounded ∧ j = slots.length) := by
  unfold alloc at h
  split at h
  · next j' hf =>
    rw [List.findIdx?_eq_some_iff_getElem] at hf
    obtain ⟨hj, hp, -⟩ := hf
    cases h
    exact .inl ⟨hj, by simpa using hp⟩
  · split at h
    · exact absurd h (by simp)
    · cases h; exact .inr ⟨rfl, rfl⟩

/-- A slot that `alloc` answers is at most one past the table. -/
theorem alloc_le {limit : Limit} {slots : List Slot} {j : Nat} (h : alloc limit slots = some j) :
    j ≤ slots.length := by
  rcases alloc_some h with ⟨hj, -⟩ | ⟨-, hj⟩ <;> omega

end Sys2Proof.Machine
end

