-- ==== Sys2Proof/Tests/Slice0.lean ====
section
/-! SUPPORT. Tests: words and values written out from spec/30_encoding.md and spec/95_test_vectors.md, and for every
statement with hypotheses a witness that meets them. Every expected value is the spec's. -/

namespace Sys2Proof.Tests

open Sys2Proof Sys2Proof.Machine

/-! ### Well-formedness: one ill-formed word for each check of R156 -/

theorem test_reserved_bit_12_is_refused :
    (fieldsOf 0x00001000).reservedClear = false ∧ (fieldsOf 0x00001000).wellFormed = false := by decide

theorem test_reserved_bit_9_is_refused :
    (fieldsOf 0x00000200).reservedClear = false ∧ (fieldsOf 0x00000200).wellFormed = false := by decide

theorem test_opcode_0A_is_refused :
    (fieldsOf 0x0000000A).opcodeDefined = false ∧ (fieldsOf 0x0000000A).wellFormed = false := by decide

theorem test_enc_on_crc_is_refused :
    (fieldsOf 0x00000101).encAllowed = false ∧ (fieldsOf 0x00000101).wellFormed = false := by decide

theorem test_buf_on_frame_is_refused :
    (fieldsOf 0x00000404).bufAllowed = false ∧ (fieldsOf 0x00000404).wellFormed = false := by decide

theorem test_buf_11_is_refused :
    (fieldsOf 0x00000C01).bufDefined = false ∧ (fieldsOf 0x00000C01).wellFormed = false := by decide

/-! ### Decoding: the words of the table of R159, and words of R156 that are no command -/

theorem test_decode_NOP : decode 0x00000000 = .ok .nop := rfl
theorem test_decode_CRC_rx : decode 0x00000001 = .ok .crcRx := rfl
theorem test_decode_CRC_tx : decode 0x00000401 = .ok .crcTx := rfl
theorem test_decode_CRC_pb : decode 0x00000801 = .ok .crcPb := rfl
theorem test_decode_XOR_rx : decode 0x00000002 = .ok .xorRx := rfl
theorem test_decode_XOR_tx : decode 0x00000402 = .ok .xorTx := rfl
theorem test_decode_XOR_pb : decode 0x00000802 = .ok .xorPb := rfl
theorem test_decode_PLAN : decode 0x00000003 = .ok .plan := rfl
theorem test_decode_FRAME : decode 0x00000004 = .ok .frame := rfl
theorem test_decode_FRAME_enc : decode 0x00000104 = .ok .frameEnc := rfl
theorem test_decode_SERIALIZE : decode 0x00000005 = .ok .serialize := rfl
theorem test_decode_SERIALIZE_enc : decode 0x00000105 = .ok .serializeEnc := rfl
theorem test_decode_DESERIALIZE : decode 0x00000006 = .ok .deserialize := rfl
theorem test_decode_VERIFY : decode 0x00000007 = .ok .verify := rfl
theorem test_decode_RX : decode 0x00000008 = .ok .rx := rfl
theorem test_decode_RX_dec : decode 0x00000108 = .ok .rxDec := rfl
theorem test_decode_RELEASE : decode 0x00000009 = .ok .release := rfl

theorem test_decode_refuses :
    [0x0000000A, 0x000000FF, 0x00000102, 0x00000403, 0x00000C02, 0x00000200, 0x80000008].map
      (decodeTableWord 32) = List.replicate 7 none := by decide

theorem test_decodeTableWord : decodeTableWord 32 0x108 = some .rxDec ∧ decodeTableWord 32 0x801 = some .crcPb := by
  decide

/-! ### States for the tests, in the example build EX -/

/-- Memory with the given bytes at the given addresses. -/
def memOf (parts : List (Nat × List Byte)) : Memory :=
  parts.foldl (fun m p => m.writeBytes p.1 p.2) []

/-- KEY32 of spec/95_test_vectors.md. -/
def key32 : List Byte := (List.range 32).map fun i => BitVec.ofNat 8 (0xa0 + i)

/-- "HELLO". -/
def hello : List Byte := [0x48, 0x45, 0x4c, 0x4c, 0x4f]

/-- The serialized HELLO segment, and its ciphertext under KEY32 (spec/95_test_vectors.md 1.1). -/
def helloWire : List Byte := [0xe6, 0x99, 0x54, 0xbe, 0, 1, 0, 1, 0x48, 0x45, 0x4c, 0x4c, 0x4f]

/-- See `helloWire`. -/
def helloCipher : List Byte :=
  [0x46, 0x38, 0xf6, 0x1d, 0xa4, 0xa4, 0xa6, 0xa6, 0xe0, 0xec, 0xe6, 0xe7, 0xe3]

/-- Segment 1 of 2 of spec/95_test_vectors.md 1.2. -/
def abcdeWire : List Byte := [0xdb, 0x81, 0x2d, 0xbe, 0, 2, 0, 1, 0x41, 0x42, 0x43, 0x44, 0x45]

/-- A sender with "HELLO" in PBUF: budget 13, one segment, KEY32. -/
def sender : State :=
  { State.reset with
    budget := 13
    keyLen := 32
    payloadLen := 9
    segCrc := 0xE69954BE
    segTotal := 1
    segIndex := 1
    blkLen := 5
    argLen := 5
    mem := memOf [(0x1000, key32), (0x30000, hello)] }

/-- A receiver with a datagram of 13 bytes in RXBUF, budget 13, KEY32, peer 1. -/
def receiver (datagram : List Byte) : State :=
  { State.reset with
    budget := 13
    keyLen := 32
    rxLen := 13
    peerKey0 := 1
    mem := memOf [(0x1000, key32), (0x10000, datagram)] }

/-- A slot of peer `k` that holds `len` bytes in `count` blocks. -/
def heldSlot (k : PeerKey) (count : Word) (len : Nat) (bytes : List Byte) : Slot :=
  { valid := true, key := k, count := count, len := len, store := memOf [(0, bytes)] }

/-- Two slots held by peers 1 and 2. -/
def fullTable : List Slot :=
  [heldSlot 1 1 5 [0x41, 0x42, 0x43, 0x44, 0x45], heldSlot 2 1 5 [0x41, 0x42, 0x43, 0x44, 0x45]]

/-- Peer 1's transfer "HELLO" being delivered from slot 0. -/
def delivering : State :=
  { State.reset with
    deliver := true
    outPeer := 1
    outCount := 1
    outLen := 5
    budget := 13
    slots := [heldSlot 1 1 5 hello, Slot.free] }

/-- The same state with a command accepted and nothing due at the port. -/
def busyWith (w : Word) (s : State) : State := { s with pending := w, engState := .busy }

/-- The state after a command. -/
def after (i : Instr) (s : State) : State := commandResult s i

/-- TXBUF[0:n]. -/
def tx (s : State) (n : Nat) : List Byte := s.ramBytes .txbuf 0 n

/-! ### One step of each command (values of spec/95_test_vectors.md) -/

theorem test_NOP : (after .nop (busyWith 0 sender)).irqStatus = 1 ∧ (after .nop (busyWith 0 sender)).errCode = .ok := by
  decide

theorem test_CRC_pb :
    (after .crcPb { sender with argLen := 9, mem := memOf [(0x30000,
      [0x31, 0x32, 0x33, 0x34, 0x35, 0x36, 0x37, 0x38, 0x39])] }).result = 0xCBF43926 := by decide +kernel

theorem test_CRC_rx_range :
    (after .crcRx { sender with argOff := 60, argLen := 5 }).errCode = .range ∧
    (after .crcRx { sender with argOff := 64, argLen := 0 }).errCode = .ok := by decide

theorem test_CRC_tx_of_frame :
    (after .crcTx { after .frame sender with argOff := 4, argLen := 9 }).result = 0xE69954BE := by
  decide +kernel

theorem test_XOR_pb :
    (after .xorPb { sender with argOff := 2, argLen := 3, keyLen := 3
                                mem := memOf [(0x1000, [1, 2, 3]), (0x30000, hello)] }).ramBytes .pbuf 0 5 =
      [0x48, 0x45, 0x4d, 0x4e, 0x4c] := by decide +kernel

theorem test_XOR_rx_checks :
    (after .xorRx { sender with keyLen := 0, argLen := 0 }).errCode = .keyInvalid ∧
    (after .xorRx { sender with keyLen := 33 }).errCode = .keyInvalid ∧
    (after .xorRx { sender with keyLen := 0, argOff := 60, argLen := 8 }).errCode = .range := by decide

theorem test_XOR_tx :
    tx (after .xorTx { after .frame sender with argOff := 0, argLen := 13 }) 13 = helloCipher := by
  decide +kernel

theorem test_PLAN : (after .plan sender).result = 2 ∧ (after .plan sender).segTotal = 2 := by decide +kernel

theorem test_PLAN_capacity :
    (after .plan { sender with budget := 64, payloadLen := 3669961 }).errCode = .capacityExceeded ∧
    (after .plan { sender with budget := 64, payloadLen := 3669960 }).result = 65535 := by decide +kernel

theorem test_FRAME : tx (after .frame sender) 13 = helloWire ∧ (after .frame sender).result = 0xE69954BE := by
  decide +kernel

theorem test_FRAME_pads :
    tx (after .frame { sender with blkLen := 3 }) 13 =
      [0x5c, 0x36, 0x08, 0xb6, 0, 1, 0, 1, 0x48, 0x45, 0x4c, 0, 0] := by decide +kernel

theorem test_FRAME_enc :
    tx (after .frameEnc sender) 13 = helloCipher ∧ (after .frameEnc sender).result = 0xE69954BE := by
  decide +kernel

theorem test_SERIALIZE :
    tx (after .serialize { sender with budget := 16 }) 16 = helloWire ++ [0, 0, 0] ∧
    (after .serialize { sender with blkLen := 6 }).errCode = .bufferTooSmall := by decide +kernel

theorem test_SERIALIZE_enc :
    tx (after .serializeEnc { sender with budget := 16 }) 16 = helloCipher ++ [0xad, 0xae, 0xaf] := by
  decide +kernel

theorem test_DESERIALIZE :
    (after .deserialize (receiver helloWire)).segCrc = 0xE69954BE ∧
    (after .deserialize (receiver helloWire)).readCsr .segFlags = 1 ∧
    (after .deserialize (receiver helloWire)).readCsr .progPct = 100 := by decide +kernel

theorem test_DESERIALIZE_full_mode_ignores_RX_LEN :
    (after .deserialize { receiver helloWire with
      rxLen := 7, build := { Config.ex with frameMode := .full } }).blkLen = 5 ∧
    (after .deserialize { receiver helloWire with rxLen := 7 }).errCode = .bufferTooSmall := by decide +kernel

theorem test_VERIFY :
    (after .verify (after .deserialize (receiver helloWire))).readCsr .segFlags = 0xD ∧
    (after .verify (after .deserialize (receiver helloWire))).result = 0xE69954BE := by decide +kernel

theorem test_VERIFY_mismatch :
    (after .verify ((after .deserialize (receiver helloWire)).writeRam .rxbuf 8 [0x49])).result = 0xDBF97D0E ∧
    (after .verify ((after .deserialize (receiver helloWire)).writeRam .rxbuf 8 [0x49])).irqStatus = 9 := by
  decide +kernel

theorem test_RX_appends :
    (after .rx (receiver abcdeWire)).readCsr .rxInfo = 0x300 ∧
    ((after .rx (receiver abcdeWire)).slot 0).store.readBytes 0 5 = [0x41, 0x42, 0x43, 0x44, 0x45] := by
  decide +kernel

theorem test_RX_table_full :
    (after .rx { receiver abcdeWire with peerKey0 := 3, slots := fullTable }).faults = 1 ∧
    (after .rx { receiver abcdeWire with peerKey0 := 3, slots := fullTable }).errCode = .peerTableFull := by
  decide +kernel

theorem test_RX_dec :
    (after .rxDec (receiver helloCipher)).deliver = true ∧ (after .rxDec (receiver helloCipher)).outLen = 5 ∧
    (after .rxDec (receiver helloCipher)).outByte 4 = 0x4f := by decide +kernel

theorem test_RELEASE :
    (after .release delivering).deliver = false ∧ ((after .release delivering).slot 0).valid = false ∧
    (after .release (after .release delivering)).errCode = .notDelivering := by decide +kernel

/-! ### The step -/

theorem test_withFetchWord_runs_the_command :
    step (State.reset.withFetchWord 32 0x3) =
      .next (finish .configTooSmall (busyWith 3 State.reset)) := rfl

theorem test_command_written_by_the_host :
    Host.Core.run Sys2Proof.core 2 { State.reset with arrivals := [.write 0x18 .w32 0] } =
      .next { State.reset with irqStatus := 1 } := rfl

theorem test_overrun :
    hostWrite 0x18 .w32 0 (busyWith 3 State.reset) = .next (raiseFault .cmdOverrun (busyWith 3 State.reset)) := rfl

theorem test_read_lanes :
    (hostRead 0x20000 .w32 (after .frameEnc sender)).replies = [0x1DF63846] := by decide +kernel

theorem test_bus_errors :
    [locate Config.ex 0x2 .w32, locate Config.ex 0x14 .w8, locate Config.ex 0x34 .w32,
      locate Config.ex 0x10001 .w16, locate Config.ex 0x10040 .w8, locate Config.ex 0x1020 .w8] =
      List.replicate 6 none := by decide

/-! ### Witnesses: hypotheses that hold together -/

theorem test_witness_StepRunsThePendingCommand :
    ((busyWith 3 sender).arrivals = [] ∧ (busyWith 3 sender).engState = .busy ∧ decode (busyWith 3 sender).pending = .ok .plan) ∧
    (sender.withFetchWord 32 3).arrivals = [.engine] ∧ (sender.withFetchWord 32 3).engState = .busy ∧
    decode (sender.withFetchWord 32 3).pending = .ok .plan := ⟨⟨rfl, rfl, rfl⟩, rfl, rfl, rfl⟩

theorem test_witness_StepOnIllegalWordOnlyRecordsIt :
    ((busyWith 0xC01 sender).arrivals = [] ∧ (busyWith 0xC01 sender).engState = .busy ∧
      (busyWith 0xC01 sender).resetPending = false ∧ decode (busyWith 0xC01 sender).pending = .error .bufReserved) ∧
    (sender.withFetchWord 32 0xA).arrivals = [.engine] ∧
    decode (sender.withFetchWord 32 0xA).pending = .error .reservedOpcode := ⟨⟨rfl, rfl, rfl, rfl⟩, rfl, rfl⟩

theorem test_witness_IdleBlockWaits :
    sender.engState = .idle ∧ sender.arrivals = [] ∧
    { sender with arrivals := [.engine] : State }.engState = .idle := by decide

theorem test_witness_ResetLeavesTheSpecifiedState : Config.ex.peerSlots = .finite 2 := rfl

theorem test_witness_PendingResetEndsTheEngineStep :
    let s : State := { sender.withFetchWord 32 3 with resetPending := true }
    s.arrivals = [.engine] ∧ s.engState = .busy ∧ s.resetPending = true ∧
    { s with arrivals := [] : State }.arrivals = [] := ⟨rfl, rfl, rfl, rfl⟩

theorem test_witness_NopOnlyCompletes :
    (0x00000100 : Word).extractLsb' 0 8 = 0 ∧ (0x00000100 : Word) ≠ 0 := by decide

theorem test_witness_HardwareResetAbandonsEverything :
    { busyWith 3 sender with arrivals := [.hardReset] : State }.arrivals = .hardReset :: [] := rfl

theorem test_witness_CrcDetectsEverySingleByteChange : (0x48 : Byte) ≠ 0x49 := by decide

theorem test_witness_CrcCommandsComputeTheRegionChecksum :
    (0x00000801#32, Instr.crcPb, Ram.pbuf) ∈ [(0x00000001#32, Instr.crcRx, Ram.rxbuf),
      (0x00000401#32, Instr.crcTx, Ram.txbuf), (0x00000801#32, Instr.crcPb, Ram.pbuf)] ∧
    (let s : State := { sender with argOff := 60, argLen := 4 };
      s.argOff.toNat + s.argLen.toNat ≤ s.build.bMax.toNat) ∧
    (let s : State := { sender with argOff := 60, argLen := 5 };
      s.build.bMax.toNat < s.argOff.toNat + s.argLen.toNat) := by decide

/-- Also the hypotheses of the FRAME statements with every check passed, at the boundary BLK_LEN = B - 8. -/
theorem test_witness_CrcOfAFrameIsItsSegmentChecksum :
    8 < sender.budget.toNat ∧ sender.budget.toNat ≤ sender.build.bMax.toNat ∧
    sender.blkLen.toNat ≤ sender.budget.toNat - 8 ∧ exec .frame sender = .next (after .frame sender) :=
  ⟨by decide, by decide, by decide, rfl⟩

theorem test_witness_KeystreamIsTheRepeatedKey : 12 < helloWire.length := by decide

theorem test_witness_XorCommandsApplyTheKeystreamInPlace :
    (0x00000002#32, Instr.xorRx, Ram.rxbuf) ∈ [(0x00000002#32, Instr.xorRx, Ram.rxbuf),
      (0x00000402#32, Instr.xorTx, Ram.txbuf), (0x00000802#32, Instr.xorPb, Ram.pbuf)] ∧
    (let s : State := { sender with argOff := 60, argLen := 5 };
      s.build.bMax.toNat < s.argOff.toNat + s.argLen.toNat) ∧
    (let s : State := { sender with argOff := 60, argLen := 4, keyLen := 33 };
      s.argOff.toNat + s.argLen.toNat ≤ s.build.bMax.toNat ∧ 32 < s.keyLen.toNat) ∧
    (let s : State := { sender with keyLen := 0 };
      s.argOff.toNat + s.argLen.toNat ≤ s.build.bMax.toNat ∧ s.keyLen.toNat = 0) ∧
    (let s : State := { sender with argOff := 60, argLen := 4 };
      s.argOff.toNat + s.argLen.toNat ≤ s.build.bMax.toNat ∧ 1 ≤ s.keyLen.toNat ∧ s.keyLen.toNat ≤ 32) := by
  decide

theorem test_witness_XorTwiceRestoresMemory :
    Instr.xorPb ∈ [Instr.xorRx, .xorTx, .xorPb] ∧ sender.mem.wf = true ∧
    exec .xorPb sender = .next (after .xorPb sender) ∧
    exec .xorPb (after .xorPb sender) = .next (after .xorPb (after .xorPb sender)) ∧
    (after .xorPb (after .xorPb sender)).mem ≠ (after .xorPb sender).mem :=
  ⟨by decide, by decide +kernel, rfl, rfl, by decide +kernel⟩

theorem test_witness_FramedSegmentVerifiesUnlessAByteIsCorrupted :
    12 < 8 + hello.length ∧ (0x50 : Byte) ≠ byteAt (ser (framedSegment 1 1 hello)) 12 := by decide +kernel

theorem test_witness_SerializeWritesTheGivenSegment :
    (0x00000105#32, Instr.serializeEnc, true) ∈
      [(0x00000005#32, Instr.serialize, false), (0x00000105#32, Instr.serializeEnc, true)] ∧
    (let s : State := { sender with budget := 65 };
      s.build.bMax.toNat < s.budget.toNat) ∧
    (let s : State := { sender with blkLen := 6 };
      s.budget.toNat ≤ s.build.bMax.toNat ∧ s.budget.toNat < 8 + s.blkLen.toNat) ∧
    (let s : State := { sender with keyLen := 33 };
      s.budget.toNat ≤ s.build.bMax.toNat ∧ 8 + s.blkLen.toNat ≤ s.budget.toNat ∧ 32 < s.keyLen.toNat) ∧
    (sender.budget.toNat ≤ sender.build.bMax.toNat ∧ 8 + sender.blkLen.toNat ≤ sender.budget.toNat ∧
      1 ≤ sender.keyLen.toNat ∧ sender.keyLen.toNat ≤ 32) := by decide

theorem test_witness_DeserializeParsesTheReceivedHeader :
    (let s : State := { receiver helloWire with budget := 65 };
      s.build.bMax.toNat < s.budget.toNat ∧ s.build.frameMode = .received ∧
      13 = min s.rxLen.toNat s.budget.toNat) ∧
    (let s : State := { receiver helloWire with rxLen := 7 };
      s.budget.toNat ≤ s.build.bMax.toNat ∧ 7 = min s.rxLen.toNat s.budget.toNat ∧ 7 < 8) ∧
    (let s : State := { receiver helloWire with rxLen := 8 };
      s.budget.toNat ≤ s.build.bMax.toNat ∧ 8 = min s.rxLen.toNat s.budget.toNat ∧ 8 ≤ 8) := by decide

theorem test_witness_VerifyRecomputesTheChecksum :
    (let s : State := { sender with blkLen := 57 };
      s.build.bMax.toNat < 8 + s.blkLen.toNat) ∧
    (let s : State := { sender with blkLen := 56 };
      8 + s.blkLen.toNat ≤ s.build.bMax.toNat) := by decide

theorem test_witness_PlanCountsTheSegments :
    (let s : State := { sender with budget := 65 };
      s.build.bMax.toNat < s.budget.toNat) ∧
    (let s : State := { sender with budget := 8 };
      s.budget.toNat ≤ s.build.bMax.toNat ∧ s.budget.toNat ≤ 8) ∧
    (let s : State := { sender with budget := 9, payloadLen := 65536 };
      s.budget.toNat ≤ s.build.bMax.toNat ∧ 8 < s.budget.toNat ∧
      65535 * (s.budget.toNat - 8) < s.payloadLen.toNat) ∧
    (let s : State := { sender with budget := 9, payloadLen := 65535 };
      s.budget.toNat ≤ s.build.bMax.toNat ∧ 8 < s.budget.toNat ∧
      s.payloadLen.toNat ≤ 65535 * (s.budget.toNat - 8)) := by decide

theorem test_witness_FramePacksChecksumsAndSerializes :
    (0x00000104#32, Instr.frameEnc, true) ∈
      [(0x00000004#32, Instr.frame, false), (0x00000104#32, Instr.frameEnc, true)] ∧
    (let s : State := { sender with budget := 65 };
      s.build.bMax.toNat < s.budget.toNat) ∧
    (let s : State := { sender with budget := 8 };
      s.budget.toNat ≤ s.build.bMax.toNat ∧ s.budget.toNat ≤ 8) ∧
    (let s : State := { sender with blkLen := 6 };
      s.budget.toNat ≤ s.build.bMax.toNat ∧ 8 < s.budget.toNat ∧ s.budget.toNat - 8 < s.blkLen.toNat) ∧
    (let s : State := { sender with keyLen := 0 };
      s.budget.toNat ≤ s.build.bMax.toNat ∧ 8 < s.budget.toNat ∧
      s.blkLen.toNat ≤ s.budget.toNat - 8 ∧ s.keyLen.toNat = 0) ∧
    (1 ≤ sender.keyLen.toNat ∧ sender.keyLen.toNat ≤ 32) := by decide

theorem test_witness_SplitCoversThePayload :
    ([1, 2] : List Byte).length ≤ 65535 * (9 - 8) ∧
    65535 * (9 - 8) < (List.replicate 65536 (0 : Byte)).length := by
  rw [List.length_replicate]; decide

/-- The nine bytes of spec/95_test_vectors.md 1.2: the second of two segments, with a slice of four bytes. -/
def nine : List Byte := [0x41, 0x42, 0x43, 0x44, 0x45, 0x46, 0x47, 0x48, 0x49]

/-- The sender that has the second slice of `nine` in PBUF. -/
def secondSlice : State :=
  { sender with
    blkLen := 4
    segTotal := 2
    segIndex := 2
    mem := memOf [(0x30000, [0x46, 0x47, 0x48, 0x49])] }

theorem test_witness_FrameEmitsTheSegmentsOfSplit :
    ∃ gs, split nine secondSlice.budget.toNat = .ok gs ∧ 1 < gs.length ∧
      secondSlice.budget.toNat ≤ secondSlice.build.bMax.toNat ∧
      secondSlice.blkLen.toNat =
        min (secondSlice.budget.toNat - 8) (nine.length - 1 * (secondSlice.budget.toNat - 8)) ∧
      secondSlice.ramBytes .pbuf 0 secondSlice.blkLen.toNat =
        (nine.drop (1 * (secondSlice.budget.toNat - 8))).take secondSlice.blkLen.toNat ∧
      secondSlice.segTotal.toNat = gs.length ∧ secondSlice.segIndex.toNat = 1 + 1 :=
  ⟨_, rfl, by decide +kernel, by decide, by decide, by decide +kernel, by decide +kernel, by decide⟩

theorem test_witness_LookupFindsTheSlotOfTheKey :
    fullTable.Pairwise fun a b => a.valid = true → b.valid = true → a.key ≠ b.key := by decide +kernel

theorem test_witness_RxIsRefusedBeforeConsuming :
    (Instr.rxDec, true) ∈ [(Instr.rx, false), (Instr.rxDec, true)] ∧ delivering.deliver = true ∧
    (let s : State := { receiver helloWire with budget := 65 };
      s.deliver = false ∧ s.build.bMax.toNat < s.budget.toNat) ∧
    (let s : State := { receiver helloWire with keyLen := 33 };
      s.deliver = false ∧ s.budget.toNat ≤ s.build.bMax.toNat ∧ 32 < s.keyLen.toNat) := by decide

theorem test_witness_RxDiscardsShortDatagrams :
    let s : State := { receiver helloWire with rxLen := 7 }
    s.deliver = false ∧ s.budget.toNat ≤ s.build.bMax.toNat ∧ 1 ≤ s.keyLen.toNat ∧ s.keyLen.toNat ≤ 32 ∧
    s.build.frameMode = .received ∧ min s.rxLen.toNat s.budget.toNat < 8 := by decide

theorem test_witness_RxDiscardsWhenTheTableIsFull :
    let s : State := { receiver abcdeWire with peerKey0 := 3, slots := fullTable }
    s.deliver = false ∧ s.budget.toNat ≤ s.build.bMax.toNat ∧ 1 ≤ s.keyLen.toNat ∧ s.keyLen.toNat ≤ 32 ∧
    8 ≤ s.rxExtent ∧ (∀ sl ∈ s.slots, sl.valid = true ∧ sl.key ≠ s.peerKey) ∧
    s.build.peerSlots ≠ .unbounded := by decide +kernel

theorem test_witness_RxDiscardsWhenTheSlotOverflows_held :
    let s : State := { receiver abcdeWire with slots := [heldSlot 1 3 15 [], Slot.free] }
    s.deliver = false ∧ s.budget.toNat ≤ s.build.bMax.toNat ∧ 1 ≤ s.keyLen.toNat ∧ s.keyLen.toNat ≤ 32 ∧
    8 ≤ s.rxExtent ∧ lookup s.slots s.peerKey = some 0 ∧ 15 = (s.slot 0).len ∧
    s.build.slotBytes = .finite 16 ∧ 16 < 15 + (s.rxExtent - 8) := by decide +kernel

theorem test_witness_RxDiscardsWhenTheSlotOverflows_new :
    let s : State := { receiver abcdeWire with budget := 64, rxLen := 25 }
    s.deliver = false ∧ s.budget.toNat ≤ s.build.bMax.toNat ∧ 8 ≤ s.rxExtent ∧
    lookup s.slots s.peerKey = none ∧ alloc s.build.peerSlots s.slots = some 0 ∧
    s.build.slotBytes = .finite 16 ∧ 16 < 0 + (s.rxExtent - 8) := by decide +kernel

theorem test_witness_RxAppendsAndCompletes_held :
    let s : State := { receiver abcdeWire with slots := [heldSlot 1 2 11 [], Slot.free] }
    s.deliver = false ∧ s.budget.toNat ≤ s.build.bMax.toNat ∧ 1 ≤ s.keyLen.toNat ∧ s.keyLen.toNat ≤ 32 ∧
    8 ≤ s.rxExtent ∧ lookup s.slots s.peerKey = some 0 ∧ 11 = (s.slot 0).len ∧ 2 = (s.slot 0).count ∧
    s.build.slotBytes.admits (11 + (s.rxExtent - 8)) = true := by decide +kernel

/-- A new transfer that this segment completes: I = T. -/
theorem test_witness_RxAppendsAndCompletes_new :
    let s : State := receiver helloWire
    s.deliver = false ∧ s.budget.toNat ≤ s.build.bMax.toNat ∧ 8 ≤ s.rxExtent ∧
    lookup s.slots s.peerKey = none ∧ alloc s.build.peerSlots s.slots = some 0 ∧
    s.build.slotBytes.admits (0 + (s.rxExtent - 8)) = true ∧
    (after .rx s).segIndex = (after .rx s).segTotal := by decide +kernel

theorem test_witness_ReleaseFreesTheDeliveredSlot : sender.deliver = false ∧ delivering.deliver = true := by decide

theorem test_witness_OnlyReleaseRemovesATransfer :
    exec .release delivering = .next (after .release delivering) ∧ (delivering.slot 0).valid = true ∧
    ((after .release delivering).slot 0).valid = false ∧
    (let s : State := { receiver abcdeWire with slots := fullTable };
      exec .rx s = .next (after .rx s) ∧ (s.slot 1).valid = true) :=
  ⟨rfl, by decide +kernel, by decide +kernel, rfl, by decide +kernel⟩

/-- A receiver, as RX.dec finds it, of what `sender` framed. -/
def loopback : State := { receiver helloCipher with slots := [heldSlot 1 1 5 hello, Slot.free] }

theorem test_witness_EncryptedFrameIsReceivedIntact :
    (8 < sender.budget.toNat ∧ sender.budget.toNat ≤ sender.build.bMax.toNat ∧
      sender.blkLen.toNat ≤ sender.budget.toNat - 8 ∧ 1 ≤ sender.keyLen.toNat ∧ sender.keyLen.toNat ≤ 32) ∧
    exec .frameEnc sender = .next (after .frameEnc sender) ∧
    loopback.ramBytes .rxbuf 0 sender.budget.toNat =
      (after .frameEnc sender).ramBytes .txbuf 0 sender.budget.toNat ∧
    loopback.keyLen = sender.keyLen ∧
    loopback.ramBytes .key 0 sender.keyLen.toNat = sender.ramBytes .key 0 sender.keyLen.toNat ∧
    loopback.budget = sender.budget ∧ loopback.build = sender.build ∧
    loopback.rxExtent = sender.budget.toNat ∧ loopback.deliver = false ∧
    lookup loopback.slots loopback.peerKey = some 0 ∧
    loopback.build.slotBytes.admits ((loopback.slot 0).len + (sender.budget.toNat - 8)) = true ∧
    exec .rxDec loopback = .next (after .rxDec loopback) :=
  ⟨by decide, rfl, by decide +kernel, rfl, by decide +kernel, rfl, rfl, by decide, rfl, by decide +kernel,
    by decide +kernel, rfl⟩

/-- The last address of each region of R106, and the first past it. -/
theorem test_witness_AddressMapIsTheSpecified :
    (AccessWidth.w16, 2) ∈ [(AccessWidth.w8, 1), (.w16, 2), (.w32, 4)] ∧
    locate Config.ex 0x101E .w16 = some (.ram .key 30) ∧ locate Config.ex 0x1020 .w16 = none ∧
    locate Config.ex 0x1003E .w16 = some (.ram .rxbuf 62) ∧ locate Config.ex 0x10040 .w16 = none ∧
    locate Config.ex 0x3003C .w32 = some (.ram .pbuf 60) ∧ locate Config.ex 0x3003E .w32 = none ∧
    locate Config.ex 0x8000000F .w8 = some (.outwin 15) ∧ locate Config.ex 0x80000010 .w8 = none ∧
    locate Config.ex 0xEC .w32 = some (.csr .slotKey3) ∧ locate Config.ex 0x34 .w32 = none ∧
    locate Config.ex 0xEC .w16 = none := by decide

theorem test_witness_WindowReadsBackWhatWasWritten :
    sender.engState = .idle ∧ locate sender.build 0x2003C .w32 = some (.ram .txbuf 60) ∧
    locate sender.build 0x101F .w8 = some (.ram .key 31) := by decide

theorem test_witness_BusErrorsAreRecordedAndHarmless :
    locate sender.build 0x20040 .w32 = none ∧ locate sender.build 0x8000000C .w32 = some (.outwin 12) ∧
    locate sender.build 0x80000010 .w8 = none ∧
    (sender.engState = .busy → ∀ i ∈ [Instr.rx, .rxDec, .release], decode sender.pending ≠ .ok i) :=
  ⟨by decide, by decide, by decide, fun h => absurd h (by decide)⟩

/-- R462: OUTWIN is in W of RELEASE and of RX; in IDLE its write is a bus error (R115). -/
theorem test_write_of_OUTWIN_during_RELEASE_and_RX_is_a_hazard :
    hostWrite 0x80000000 .w8 1 (busyWith 9 delivering) = .fault .hostHazard ∧
    hostWrite 0x8000000C .w32 1 (busyWith 0x108 delivering) = .fault .hostHazard ∧
    hostWrite 0x80000010 .w8 1 (busyWith 9 delivering) = .next (raiseFault .busErr (busyWith 9 delivering)) ∧
    hostWrite 0x80000000 .w8 1 delivering = .next { delivering with faults := 8, irqStatus := 0x10 } :=
  ⟨rfl, rfl, rfl, rfl⟩

/-- In IDLE, and while a command runs that is neither RX nor RELEASE; below OUT_LEN and across it. -/
theorem test_witness_OutwinShowsTheDeliveredPayload :
    (AccessWidth.w32, 4) ∈ [(AccessWidth.w8, 1), (.w16, 2), (.w32, 4)] ∧
    (delivering.engState = .busy → ∀ i ∈ [Instr.rx, .rxDec, .release], decode delivering.pending ≠ .ok i) ∧
    (∀ i ∈ [Instr.rx, .rxDec, .release], decode (busyWith 7 delivering).pending ≠ .ok i) ∧
    locate delivering.build 0x80000000 .w32 = some (.outwin 0) ∧
    locate delivering.build 0x80000004 .w32 = some (.outwin 4) ∧
    (hostRead 0x80000004 .w32 delivering).replies = [0x0000004F] := by
  refine ⟨by decide, fun h => absurd h (by decide), fun i hi => ?_, by decide, by decide, by decide +kernel⟩
  simp only [List.mem_cons, List.not_mem_nil, or_false] at hi
  rcases hi with rfl | rfl | rfl <;> exact fun h => nomatch h

/-- The first and the last register of the map, in IDLE. -/
theorem test_witness_IdlePortReadsAndWritesRegisters :
    sender.engState = .idle ∧ locate sender.build 0x000 .w32 = some (.csr .id) ∧
    locate sender.build 0x0EC .w32 = some (.csr .slotKey3) ∧
    hostWrite 0x040 .w32 0x0001000E sender = .next { sender with budget := 14 } ∧
    (hostRead 0x040 .w32 sender).replies = [13] :=
  ⟨rfl, by decide, by decide, rfl, rfl⟩

theorem test_witness_RegistersStoreTheirFields :
    (Csr.irqEnable, 5) ∈ [(Csr.argOff, 16), (.argLen, 16), (.irqEnable, 5), (.budget, 16), (.keyLen, 8),
      (.payloadLen, 32), (.segCrc, 32), (.segTotal, 16), (.segIndex, 16), (.blkLen, 16), (.rxLen, 16),
      (.peerKey0, 32), (.peerKey1, 32), (.peerKey2, 32), (.peerKey3, 32), (.slotSel, 8)] ∧
    Csr.slotKey3 ∈ [Csr.id, .param0, .param1, .param2, .status, .result, .segFlags, .progPct, .txLen, .rxInfo,
      .outLen, .outCount, .outSlot, .outPeer0, .outPeer1, .outPeer2, .outPeer3, .cntRx, .cntShort,
      .cntDrop, .cntBadCrc, .cntDone, .slotInfo, .slotCount, .slotLen, .slotKey0, .slotKey1,
      .slotKey2, .slotKey3] ∧ 3 < 4 ∧ 4 < 5 := by decide

theorem test_witness_StatusShowsTheFlags :
    (ErrCode.accOverflow, 0x0C#8) ∈ [(ErrCode.ok, 0x00#8), (.configTooSmall, 0x01#8), (.capacityExceeded, 0x02#8),
      (.bufferTooSmall, 0x03#8), (.configRange, 0x04#8), (.keyInvalid, 0x05#8), (.sliceTooLong, 0x06#8),
      (.range, 0x07#8), (.illegalCmd, 0x08#8), (.deliverPending, 0x09#8), (.notDelivering, 0x0A#8),
      (.peerTableFull, 0x0B#8), (.accOverflow, 0x0C#8)] ∧
    { sender with errCode := .accOverflow : State }.errCode = .accOverflow := by decide

/-- The four ways in which a fault bit is cleared, each on a concrete state. -/
theorem test_witness_FaultBitsAreSticky :
    let s : State := { State.reset with faults := 3 }
    (step { s with arrivals := [.write 0x28 .w32 1] } = .next { s with faults := 2 }) ∧
    (step { s with arrivals := [.hardReset] } = .next State.reset) ∧
    (step { s with arrivals := [.write 0x10 .w32 1] } = .next State.reset) ∧
    (step { s with engState := .busy, resetPending := true } = .next State.reset) :=
  ⟨rfl, rfl, rfl, rfl⟩

/-- A running `XOR rx` over RXBUF[4:8] under a key of 3 bytes: accesses that just meet and just miss each region. -/
theorem test_witness_WritesIntoARunningXorAreHazards :
    let s : State := { busyWith 2 sender with argOff := 4, argLen := 4, keyLen := 3 }
    (AccessWidth.w16, 2) ∈ [(AccessWidth.w8, 1), (.w16, 2), (.w32, 4)] ∧
    (Instr.xorRx, Ram.rxbuf) ∈ [(Instr.xorRx, Ram.rxbuf), (.xorTx, .txbuf), (.xorPb, .pbuf)] ∧
    s.engState = .busy ∧ decode s.pending = .ok .xorRx ∧
    locate s.build 0x10006 .w16 = some (.ram .rxbuf 6) ∧ locate s.build 0x10008 .w16 = some (.ram .rxbuf 8) ∧
    locate s.build 0x10002 .w16 = some (.ram .rxbuf 2) ∧ locate s.build 0x20006 .w16 = some (.ram .txbuf 6) ∧
    locate s.build 0x1002 .w16 = some (.ram .key 2) ∧ locate s.build 0x1004 .w16 = some (.ram .key 4) ∧
    locate s.build 0x1C .w32 = some (.csr .argOff) :=
  ⟨by decide, by decide, rfl, rfl, by decide, by decide, by decide, by decide, by decide, by decide, by decide⟩

/-- A running FRAME.enc with B = 13: the last access inside TXBUF[0:13], one across its end, one past it. -/
theorem test_witness_ReadsOfARunningFramesOutputAreFree :
    let s : State := busyWith 0x104 sender
    (AccessWidth.w16, 2) ∈ [(AccessWidth.w8, 1), (.w16, 2), (.w32, 4)] ∧ Instr.frameEnc ∈ [Instr.frame, .frameEnc] ∧
    s.engState = .busy ∧ decode s.pending = .ok .frameEnc ∧
    locate s.build 0x2000C .w8 = some (.ram .txbuf 12) ∧ locate s.build 0x2000C .w16 = some (.ram .txbuf 12) ∧
    locate s.build 0x2000D .w8 = some (.ram .txbuf 13) ∧ locate s.build 0x6C .w32 = some (.csr .txLen) :=
  ⟨by decide, by decide, rfl, rfl, by decide, by decide, by decide, by decide⟩

/-- A running RX with B = 13: a register of its read set, one of its write set, one that is excepted, one outside; bytes
of RXBUF inside and past RXBUF[0:13]; OUTWIN. -/
theorem test_witness_WritesIntoAFootprintAreHazards :
    let s : State := busyWith 8 (receiver helloWire)
    (AccessWidth.w32, 4) ∈ [(AccessWidth.w8, 1), (.w16, 2), (.w32, 4)] ∧
    s.engState = .busy ∧ decode s.pending = .ok .rx ∧
    locate s.build 0x68 .w32 = some (.csr .rxLen) ∧ locate s.build 0x50 .w32 = some (.csr .segCrc) ∧
    locate s.build 0x28 .w32 = some (.csr .faults) ∧ locate s.build 0x1C .w32 = some (.csr .argOff) ∧
    locate s.build 0x1000C .w32 = some (.ram .rxbuf 12) ∧ locate s.build 0x10010 .w32 = some (.ram .rxbuf 16) ∧
    locate s.build 0x8000000C .w32 = some (.outwin 12) ∧
    hostWrite 0x68 .w32 0 s = .fault .hostHazard ∧ hostWrite 0x50 .w32 0 s = .fault .hostHazard ∧
    hostWrite 0x1C .w32 7 s = .next { s with argOff := 7 } ∧ hostWrite 0x1000C .w32 0 s = .fault .hostHazard :=
  ⟨by decide, rfl, rfl, by decide, by decide, by decide, by decide, by decide, by decide, by decide, rfl, rfl, rfl, rfl⟩

/-- A running RELEASE: a register of its write set, one that is always defined, one outside; a RAM; OUTWIN. -/
theorem test_witness_ReadsOfAWriteSetAreFree :
    let s : State := busyWith 9 delivering
    (AccessWidth.w32, 4) ∈ [(AccessWidth.w8, 1), (.w16, 2), (.w32, 4)] ∧
    s.engState = .busy ∧ decode s.pending = .ok .release ∧ Instr.release ∈ [Instr.rx, .rxDec, .release] ∧
    locate s.build 0xD4 .w32 = some (.csr .slotInfo) ∧ locate s.build 0x14 .w32 = some (.csr .status) ∧
    locate s.build 0x98 .w32 = some (.csr .outSlot) ∧ locate s.build 0x20000 .w32 = some (.ram .txbuf 0) ∧
    locate s.build 0x80000000 .w32 = some (.outwin 0) ∧
    hostRead 0xD4 .w32 s = { s with replies := [Config.freeRead 0], freeReads := 1 } :=
  ⟨by decide, rfl, rfl, by decide, by decide, by decide, by decide, by decide, by decide, rfl⟩

theorem test_witness_SlotInspectionShowsTheSelectedSlot :
    delivering.build.peerSlots = .finite 2 ∧ { delivering with slotSel := 1 : State }.slotSel.toNat < 2 ∧
    2 ≤ { delivering with slotSel := 2 : State }.slotSel.toNat := by decide

theorem test_witness_NoStepChangesTheBuild : step State.reset = .next State.reset := rfl

theorem test_witness_ResetMeetsTheInvariant : Config.ex.wf = true := by decide

/-- A delivering state, its RELEASE accepted, meets the invariant, and its step answers a next state. -/
theorem test_witness_EveryStepKeepsTheInvariant :
    (busyWith 9 delivering).Inv ∧ step (busyWith 9 delivering) = .next (after .release (busyWith 9 delivering)) := by
  refine ⟨⟨by decide, by decide, by decide, by decide, ?_, by decide +kernel, by decide,
    fun _ => ⟨by decide, by decide +kernel, by decide +kernel, by decide +kernel, by decide +kernel⟩,
    by decide⟩, rfl⟩
  intro sl hsl
  simp only [busyWith, delivering, List.mem_cons, List.not_mem_nil, or_false] at hsl
  rcases hsl with rfl | rfl <;>
    exact ⟨by decide +kernel, by decide +kernel, by decide +kernel, by decide +kernel⟩

end Sys2Proof.Tests
end

section
/-! The wire's byte order (spec/00_scope.md R14, spec/20_memory.md R100): bytes as digits in base 256. -/

namespace Sys2Proof.Machine

/-- A byte concatenated below a word is the word's new last digit in base 256. -/
theorem toNat_append_byte {n : Nat} (hi : BitVec n) (lo : Byte) :
    (hi ++ lo).toNat = hi.toNat * 256 + lo.toNat := by
  rw [BitVec.toNat_append, ← Nat.shiftLeft_add_eq_or_of_lt lo.isLt, Nat.shiftLeft_eq]

/-- The byte of a word at bit `k` is a digit of the word in base 256. -/
theorem toNat_extract_byte {n : Nat} (v : BitVec n) (k : Nat) :
    (v.extractLsb' k 8).toNat = v.toNat / 2 ^ k % 256 := by
  rw [BitVec.extractLsb'_toNat, Nat.shiftRight_eq_div_pow]

theorem map_toNat_be16 (v : Half) :
    (be16 v).map BitVec.toNat = [v.toNat / 256, v.toNat % 256] := by
  have top_digit : v.toNat / 256 % 256 = v.toNat / 256 :=
    Nat.mod_eq_of_lt (Nat.div_lt_of_lt_mul v.isLt)
  simp only [be16, List.map_cons, List.map_nil, toNat_extract_byte, Nat.reducePow, top_digit, Nat.div_one]

theorem map_toNat_be32 (v : Word) :
    (be32 v).map BitVec.toNat =
      [v.toNat / 2 ^ 24, v.toNat / 2 ^ 16 % 256, v.toNat / 2 ^ 8 % 256, v.toNat % 256] := by
  have top_digit : v.toNat / 2 ^ 24 % 256 = v.toNat / 2 ^ 24 :=
    Nat.mod_eq_of_lt (Nat.div_lt_of_lt_mul v.isLt)
  simp only [be32, List.map_cons, List.map_nil, toNat_extract_byte, top_digit, Nat.pow_zero, Nat.div_one]

theorem toNat_rdBe16 (bs : List Byte) (o : Nat) :
    (rdBe16 bs o).toNat = (byteAt bs o).toNat * 256 + (byteAt bs (o + 1)).toNat :=
  toNat_append_byte _ _

theorem toNat_rdBe32 (bs : List Byte) (o : Nat) :
    (rdBe32 bs o).toNat =
      (byteAt bs o).toNat * 2 ^ 24 + (byteAt bs (o + 1)).toNat * 2 ^ 16 +
        (byteAt bs (o + 2)).toNat * 2 ^ 8 + (byteAt bs (o + 3)).toNat := by
  have horner : (rdBe32 bs o).toNat =
      (((byteAt bs o).toNat * 256 + (byteAt bs (o + 1)).toNat) * 256 +
        (byteAt bs (o + 2)).toNat) * 256 + (byteAt bs (o + 3)).toNat := by
    simp only [rdBe32, toNat_append_byte]
  rw [horner]
  ring

/-- Settles O21: each byte written is a digit in base 256, and each byte read adds one. -/
theorem wireFieldsAreBigEndian : Obligations.WireFieldsAreBigEndian :=
  ⟨map_toNat_be16, map_toNat_be32, toNat_rdBe16, toNat_rdBe32⟩

end Sys2Proof.Machine
end

section
/-! SUPPORT and proofs. The invariant of Safety.lean (spec/10_state.md R38, R60, R64; spec/44_reassembly.md R320):
what an update of the RAMs, of the table and of OUT_* must respect to keep it, and then that every command and
every event at the port respects it. -/

namespace Sys2Proof.Machine

/-! ### The part of the state that the invariant speaks of -/

/-- The RAMs, the table, OUT_* and the two flags of R38 as `s` has them, and reset values everywhere else. -/
def State.invPart (s : State) : State :=
  { State.resetOf s.build with
    mem := s.mem
    slots := s.slots
    deliver := s.deliver
    outSlot := s.outSlot
    outLen := s.outLen
    outCount := s.outCount
    outPeer := s.outPeer
    engState := s.engState
    resetPending := s.resetPending }

/-- The copy reads the same in every clause. -/
theorem State.invPart_inv_iff (s : State) : s.invPart.Inv ↔ s.Inv := by
  constructor <;> intro h <;> exact { h with delivery := fun hd => { h.delivery hd with } }

/-- An update outside `invPart` keeps the invariant; the equation is mostly `rfl`. -/
theorem State.Inv.of_invPart_eq {s t : State} (h : s.Inv) (e : t.invPart = s.invPart) : t.Inv := by
  rw [← t.invPart_inv_iff, e, s.invPart_inv_iff]
  exact h

/-- ENG_STATE and RESET_PENDING meet in no other part of the invariant than R38. -/
theorem State.Inv.setEngine {s : State} {eng : EngState} {req : Bool} (h : s.Inv) (hbusy : req = true → eng = .busy) :
    { s with engState := eng, resetPending := req }.Inv :=
  { h with
    delivery := fun hd => { h.delivery hd with }
    reset_busy := hbusy }

/-! ### Limits, addresses and slots -/

theorem admits_of_le {l : Limit} {m n : Nat} (hmn : m ≤ n) (h : l.admits n = true) : l.admits m = true := by
  cases l with
  | unbounded => rfl
  | finite k =>
    simp only [Limit.admits, decide_eq_true_eq] at h ⊢
    exact hmn.trans h

theorem admits_zero (l : Limit) : l.admits 0 = true := by
  cases l <;> simp [Limit.admits]

/-- A byte within a RAM is mapped (R106). -/
theorem mappedAddress_of_ram {b : Build} {r : Ram} {a : Nat} (hlo : r.base ≤ a) (hhi : a < r.base + r.size b) :
    mappedAddress b a = true := by
  simp only [mappedAddress, List.any_eq_true, Bool.and_eq_true, decide_eq_true_eq]
  exact ⟨r, by cases r <;> simp, hlo, hhi⟩

theorem Slot.inv_free (limit : Limit) : Slot.free.Inv limit where
  len_fits := admits_zero limit
  free_empty _ := ⟨rfl, rfl, rfl⟩
  store_wf := rfl
  store_fits := by simp [Slot.free]

/-- R337: erasing keeps the STORE, whose form does not depend on VALID. -/
theorem Slot.Inv.erase {limit : Limit} {sl : Slot} (h : sl.Inv limit) : sl.erase.Inv limit where
  len_fits := admits_zero limit
  free_empty _ := ⟨rfl, rfl, rfl⟩
  store_wf := h.store_wf
  store_fits := h.store_fits

/-- R326: an append that SLOT_BYTES admits writes no byte past the end of the STORE. -/
theorem Slot.Inv.append {limit : Limit} {sl : Slot} {isNew : Bool} {k : PeerKey} {block : List Byte}
    (h : sl.Inv limit) (fits : limit.admits ((if isNew then 0 else sl.len) + block.length) = true) :
    (sl.append isNew k block).Inv limit where
  len_fits := fits
  free_empty hv := absurd hv (by simp [Slot.append])
  store_wf := Memory.wf_writeBytes _ _ _ h.store_wf
  store_fits c hc := by
    rcases Memory.mem_writeBytes hc with hold | ⟨-, hnew⟩
    · exact h.store_fits c hold
    · exact admits_of_le hnew fits

/-! ### The table -/

/-- Every number names a slot that is as R64 says: one of the table, or past it the free one. -/
theorem State.Inv.slot {s : State} (h : s.Inv) (j : Nat) : (s.slot j).Inv s.build.slotBytes := by
  by_cases hj : j < s.slots.length
  · have : s.slot j = s.slots[j] := by simp [State.slot, hj]
    rw [this]
    exact h.slot_inv _ (List.getElem_mem hj)
  · have : s.slot j = Slot.free := by simp [State.slot, Nat.le_of_not_lt hj]
    rw [this]
    exact Slot.inv_free _

/-- R64 by slot numbers: a number past the table names no valid slot. -/
theorem keys_pairwise_iff (slots : List Slot) :
    (slots.Pairwise fun a b => a.valid = true → b.valid = true → a.key ≠ b.key) ↔
      ∀ i j, i ≠ j → (slots.getD i Slot.free).valid = true → (slots.getD j Slot.free).valid = true →
        (slots.getD i Slot.free).key ≠ (slots.getD j Slot.free).key := by
  have in_table (i : Nat) (hv : (slots.getD i Slot.free).valid = true) : i < slots.length := by
    by_contra hi
    simp [Nat.le_of_not_lt hi, Slot.free] at hv
  rw [List.pairwise_iff_getElem]
  constructor
  · intro h i j hij hvi hvj
    have hi := in_table i hvi
    have hj := in_table j hvj
    simp only [List.getD_eq_getElem, hi, hj] at hvi hvj ⊢
    rcases Nat.lt_or_gt_of_ne hij with hlt | hgt
    · exact h i j hi hj hlt hvi hvj
    · exact (h j i hj hi hgt hvj hvi).symm
  · intro h i j hi hj hlt hvi hvj
    have hij := h i j (Nat.ne_of_lt hlt)
    simp only [List.getD_eq_getElem, hi, hj] at hij
    exact hij hvi hvj

theorem mem_putSlot {slots : List Slot} {j : Nat} {x y : Slot} (h : y ∈ putSlot slots j x) : y ∈ slots ∨ y = x := by
  unfold putSlot at h
  split at h
  · exact List.mem_or_eq_of_mem_set h
  · simpa using h

/-- A slot number that may be written: one of the table, or the next one of an unbounded table (log 15). -/
def State.writableSlot (s : State) (j : Nat) : Prop :=
  j < s.slots.length ∨ (s.build.peerSlots = .unbounded ∧ j = s.slots.length)

theorem State.writableSlot.le_length {s : State} {j : Nat} (h : s.writableSlot j) : j ≤ s.slots.length := by
  rcases h with hj | ⟨-, hj⟩ <;> omega

theorem length_putSlot_of_lt {slots : List Slot} {j : Nat} (x : Slot) (h : j < slots.length) :
    (putSlot slots j x).length = slots.length := by
  simp [putSlot, h]

theorem lt_length_putSlot {slots : List Slot} {j : Nat} (x : Slot) (h : j ≤ slots.length) :
    j < (putSlot slots j x).length := by
  unfold putSlot
  split
  · simpa
  · rw [List.length_append, List.length_singleton]
    omega

/-- Outside delivery, a slot may take any value that is as R64 says and whose key no other valid slot holds. -/
theorem State.Inv.putSlot {s : State} {j : Nat} {x : Slot} (h : s.Inv) (hd : s.deliver = false)
    (hj : s.writableSlot j) (hx : x.Inv s.build.slotBytes)
    (hkey : ∀ i, i ≠ j → (s.slot i).valid = true → x.valid = true → (s.slot i).key ≠ x.key) :
    { s with slots := Machine.putSlot s.slots j x }.Inv :=
  { h with
    table_size := by
      rcases hj with hlt | ⟨hu, -⟩
      · simpa only [length_putSlot_of_lt x hlt] using h.table_size
      · simp only [hu, tableSizeOk]
    slot_inv := fun y hy => by
      rcases mem_putSlot hy with hold | rfl
      · exact h.slot_inv y hold
      · exact hx
    keys_distinct := (keys_pairwise_iff _).2 fun a b hab => by
      have distinct := (keys_pairwise_iff s.slots).1 h.keys_distinct
      simp only [getD_putSlot _ _ _ _ hj.le_length]
      by_cases ha : a = j
      · rw [if_pos ha, if_neg (ha ▸ hab.symm)]
        exact fun hvx hvb => (hkey b (ha ▸ hab.symm) hvb hvx).symm
      · by_cases hb : b = j
        · rw [if_neg ha, if_pos hb]
          exact hkey a ha
        · rw [if_neg ha, if_neg hb]
          exact distinct a b hab
    delivery := fun hd' => absurd (hd.symm.trans hd') (by simp) }

/-- The end of delivery needs nothing of OUT_*, which keep their values (R337). -/
theorem State.Inv.endDelivery {s : State} (h : s.Inv) : { s with deliver := false }.Inv :=
  { h with delivery := fun hd => absurd hd (by simp) }

/-- Freeing a slot of the table writes it back erased (R337). -/
theorem freeSlot_eq_putSlot {slots : List Slot} {j : Nat} (h : j < slots.length) :
    freeSlot slots j = putSlot slots j (slots.getD j Slot.free).erase := by
  simp [freeSlot, putSlot, h, List.modify_eq_set_getElem?]

theorem State.Inv.freeSlot {s : State} {j : Nat} (h : s.Inv) (hd : s.deliver = false) (hj : j < s.slots.length) :
    { s with slots := Machine.freeSlot s.slots j }.Inv := by
  rw [freeSlot_eq_putSlot hj]
  exact h.putSlot hd (.inl hj) (h.slot j).erase fun _ _ _ hv => absurd hv (by simp [Slot.erase])

/-- The numbers of the table are those below PEER_SLOTS (R64). -/
theorem tableHolds_of_lt {limit : Limit} {k j : Nat} (h : tableSizeOk limit k = true) (hj : j < k) :
    tableHolds limit j = true := by
  cases limit with
  | unbounded => rfl
  | finite n =>
    simp only [tableSizeOk, beq_iff_eq] at h
    simpa [tableHolds, ← h] using hj

/-- Delivery of a valid slot of the selected peer (R329, R330). -/
theorem State.Inv.enterDelivery {s : State} {j : Nat} (h : s.Inv) (hj : j < s.slots.length)
    (hv : (s.slot j).valid = true) (hk : (s.slot j).key = s.peerKey) : (Machine.enterDelivery j s).Inv :=
  { h with
    out_fits := ⟨tableHolds_of_lt h.table_size hj, (h.slot j).len_fits⟩
    delivery := fun _ => ⟨hj, hv, hk, rfl, rfl⟩ }

/-! ### The RAMs -/

/-- A write within a RAM lists only mapped addresses, in canonical form (R106, R107). -/
theorem State.Inv.writeRam {s : State} {r : Ram} {o : Nat} {bs : List Byte} (h : s.Inv)
    (fits : o + bs.length ≤ r.size s.build) : (s.writeRam r o bs).Inv :=
  { h with
    mem_wf := Memory.wf_writeBytes _ _ _ h.mem_wf
    mem_mapped := fun c hc => by
      rcases Memory.mem_writeBytes hc with hold | ⟨hlo, hhi⟩
      · exact h.mem_mapped c hold
      · exact mappedAddress_of_ram (r := r) (by omega) (by simp only [State.writeRam_build]; omega)
    delivery := fun hd => { h.delivery hd with } }

/-! ### Reset -/

/-- Past the table, and in it after reset, every slot is free (R62, R67). -/
theorem slot_resetOf (b : Build) (j : Nat) : (State.resetOf b).slot j = Slot.free := by
  unfold State.slot State.resetOf
  cases b.peerSlots with
  | unbounded => rfl
  | finite n => by_cases hj : j < n <;> simp [State.freeTable, List.getD, hj]

theorem mem_freeTable {limit : Limit} {sl : Slot} (h : sl ∈ State.freeTable limit) : sl = Slot.free := by
  cases limit with
  | unbounded => simp [State.freeTable] at h
  | finite n => exact List.eq_of_mem_replicate h

theorem resetOf_inv {b : Build} (hb : b.wf = true) : (State.resetOf b).Inv where
  build_wf := hb
  mem_wf := rfl
  mem_mapped := by simp [State.resetOf]
  table_size := by
    simp only [State.resetOf]
    cases b.peerSlots <;> simp [State.freeTable, tableSizeOk]
  slot_inv sl hsl := mem_freeTable hsl ▸ Slot.inv_free _
  keys_distinct := List.pairwise_of_forall_mem_list fun _ ha _ _ hv =>
    absurd (mem_freeTable ha ▸ hv) (by simp [Slot.free])
  out_fits := by
    refine ⟨?_, admits_zero _⟩
    simp only [State.resetOf]
    simp only [Build.wf, Bool.and_eq_true] at hb
    obtain ⟨⟨-, hslots⟩, -⟩ := hb
    cases hp : b.peerSlots with
    | unbounded => rfl
    | finite n =>
      simp only [hp, decide_eq_true_eq] at hslots
      simpa [tableHolds] using Nat.lt_of_lt_of_le Nat.zero_lt_one hslots.1
  delivery hd := absurd hd (by simp [State.resetOf])
  reset_busy hr := absurd hr (by simp [State.resetOf])

/-- Settles O59: an empty memory and PEER_SLOTS free slots, of which the build has at least one. -/
theorem resetMeetsTheInvariant : Obligations.ResetMeetsTheInvariant := by
  unfold Obligations.ResetMeetsTheInvariant
  exact fun _ hb => resetOf_inv hb

theorem State.Inv.resetBlock {s : State} (h : s.Inv) : s.resetBlock.Inv :=
  (resetOf_inv h.build_wf).of_invPart_eq rfl

/-! ### The ENGINE's step -/

/-- `t` is the end of a command whose effects, before `finish`, kept the invariant. `finish` itself may leave
RESET_PENDING in IDLE, which the end of the same ENGINE step repairs (R130, R453). -/
def FinishesInv (t : State) : Prop := ∃ code u, t = finish code u ∧ u.Inv

theorem FinishesInv.applyPendingReset {t : State} (h : FinishesInv t) : (Machine.applyPendingReset t).Inv := by
  obtain ⟨code, u, rfl, hu⟩ := h
  rcases applyPendingReset_cases (finish code u) with ⟨-, e⟩ | ⟨hr, e⟩ <;> rw [e]
  · exact hu.resetBlock.of_invPart_eq rfl
  · have hidle : u.resetPending = true → EngState.idle = .busy := fun hr' => absurd (hr.symm.trans hr') (by simp)
    exact (hu.setEngine hidle).of_invPart_eq rfl

/-- A command that ends with effects outside `invPart` only. -/
theorem State.Inv.finishesInv {s u : State} (h : s.Inv) (code : ErrCode) (e : u.invPart = s.invPart) :
    FinishesInv (finish code u) :=
  ⟨code, u, rfl, h.of_invPart_eq e⟩

section Commands

variable {s : State}

theorem finishesInv_crc (h : s.Inv) (r : Ram) : FinishesInv (crcCommand r s) := by
  rcases crcCommand_cases r s with ⟨-, e⟩ | ⟨-, e⟩ <;> rw [e] <;> exact h.finishesInv _ rfl

/-- A region that XOR takes lies within its buffer (R223). -/
theorem finishesInv_xor (h : s.Inv) {r : Ram} (hr : r.size s.build = s.bMax) : FinishesInv (xorCommand r s) := by
  rcases xorCommand_cases r s with ⟨-, e⟩ | ⟨-, -, e⟩ | ⟨hin, -, e⟩ <;> rw [e]
  · exact h.finishesInv _ rfl
  · exact h.finishesInv _ rfl
  · rw [State.regionOutOfRange_iff] at hin
    exact ⟨_, _, rfl, h.writeRam (by simp only [length_keystream, State.region, State.length_ramBytes, hr]; omega)⟩

theorem finishesInv_plan (h : s.Inv) : FinishesInv (planCommand s) := by
  rcases planCommand_cases s with ⟨-, e⟩ | ⟨-, -, e⟩ | ⟨-, -, -, e⟩ | ⟨-, -, -, e⟩ <;> rw [e] <;>
    exact h.finishesInv _ rfl

/-- A datagram of B bytes, B being in range, lies within TXBUF (R248, R286). -/
theorem emitDatagram_inv (h : s.Inv) (hB : ¬ s.budgetOutOfRange = true) {d : List Byte}
    (hd : d.length = s.budget.toNat) : (emitDatagram d s).Inv := by
  rw [State.budgetOutOfRange_iff] at hB
  have fits : 0 + d.length ≤ Ram.size s.build .txbuf := by
    simp only [State.bMax] at hB
    simp only [Ram.size]
    omega
  exact (h.writeRam fits).of_invPart_eq rfl

theorem finishesInv_frame (h : s.Inv) (enc : Bool) : FinishesInv (frameCommand enc s) := by
  rcases frameCommand_cases enc s with
    ⟨-, e⟩ | ⟨-, -, e⟩ | ⟨-, -, -, e⟩ | ⟨-, -, -, -, e⟩ | ⟨hB, h8, hs, -, e⟩ <;> rw [e]
  case inr.inr.inr.inr =>
    have hd := (s.length_applyCipher enc _).trans (s.length_ser_frameSegment h8 hs)
    exact ⟨_, _, rfl, (emitDatagram_inv h hB hd).of_invPart_eq rfl⟩
  all_goals exact h.finishesInv _ rfl

theorem finishesInv_serialize (h : s.Inv) (enc : Bool) : FinishesInv (serializeCommand enc s) := by
  rcases serializeCommand_cases enc s with ⟨-, e⟩ | ⟨-, -, e⟩ | ⟨-, -, -, e⟩ | ⟨hB, hfit, -, e⟩ <;> rw [e]
  case inr.inr.inr =>
    have hd := (s.length_applyCipher enc _).trans (s.length_serializeDatagram hfit)
    exact ⟨_, _, rfl, emitDatagram_inv h hB hd⟩
  all_goals exact h.finishesInv _ rfl

theorem finishesInv_deserialize (h : s.Inv) : FinishesInv (deserializeCommand s) := by
  rcases deserializeCommand_cases s with ⟨-, e⟩ | ⟨-, -, e⟩ | ⟨-, -, e⟩ <;> rw [e] <;> exact h.finishesInv _ rfl

theorem finishesInv_verify (h : s.Inv) : FinishesInv (verifyCommand s) := by
  rcases verifyCommand_cases s with ⟨-, e⟩ | ⟨-, e⟩ <;> rw [e] <;> exact h.finishesInv _ rfl

/-- Delivery is over before the slot is freed, so OUT_* need describe no slot (R337). -/
theorem finishesInv_release (h : s.Inv) : FinishesInv (releaseCommand s) := by
  rcases releaseCommand_cases s with ⟨-, e⟩ | ⟨hd, e⟩ <;> rw [e]
  · exact h.finishesInv _ rfl
  · exact ⟨_, _, rfl, h.endDelivery.freeSlot rfl (h.delivery hd).in_table⟩

/-! RX: the slot it appends to is the peer's one valid slot, or a free one when the peer has none. -/

theorem discardDatagram_finishesInv (h : s.Inv) (f : FaultBit) (code : ErrCode) :
    FinishesInv (discardDatagram f code s) :=
  h.finishesInv _ rfl

/-- What RX knows of slot j: it may be written, it is the peer's if it is not a new one, and no other valid slot
is the peer's (R322, R323). -/
structure ReceivingSlot (s : State) (j : Nat) (isNew : Bool) : Prop where
  writable : s.writableSlot j
  held : isNew = false → (s.slot j).key = s.peerKey
  only : ∀ i, i ≠ j → (s.slot i).valid = true → (s.slot i).key ≠ s.peerKey

/-- A slot that the append has written is the peer's. -/
theorem ReceivingSlot.append_key {j : Nat} {isNew : Bool} (hj : ReceivingSlot s j isNew) (block : List Byte) :
    ((s.slot j).append isNew s.peerKey block).key = s.peerKey := by
  cases isNew with
  | true => rfl
  | false => exact hj.held rfl

theorem receivingSlot_of_lookup (h : s.Inv) {j : Nat} (hl : lookup s.slots s.peerKey = some j) :
    ReceivingSlot s j false := by
  obtain ⟨hlt, hv, hk⟩ := lookup_some hl
  have hslot : s.slot j = s.slots[j] := by simp [State.slot, hlt]
  refine ⟨.inl hlt, fun _ => hslot ▸ hk, fun i hij hvi => ?_⟩
  have distinct := (keys_pairwise_iff s.slots).1 h.keys_distinct i j hij hvi
  rw [← hk, ← hslot]
  rw [← hslot] at hv
  exact distinct hv

theorem receivingSlot_of_alloc {j : Nat} (hl : lookup s.slots s.peerKey = none)
    (ha : alloc s.build.peerSlots s.slots = some j) : ReceivingSlot s j true := by
  refine ⟨?_, fun hn => absurd hn (by simp), fun i _ hvi => ?_⟩
  · rcases alloc_some ha with ⟨hlt, -⟩ | hnext
    · exact .inl hlt
    · exact .inr hnext
  · by_cases hi : i < s.slots.length
    · have hslot : s.slot i = s.slots[i] := by simp [State.slot, hi]
      rw [hslot] at hvi ⊢
      exact lookup_none hl _ (List.getElem_mem hi) hvi
    · simp [State.slot, Nat.le_of_not_lt hi, Slot.free] at hvi

theorem appendSegment_inv (h : s.Inv) (hd : s.deliver = false) {j : Nat} {isNew : Bool} {g : Segment}
    (hj : ReceivingSlot s j isNew)
    (fits : s.build.slotBytes.admits (appendBase s j isNew + g.block.length) = true) :
    (appendSegment j isNew g s).Inv := by
  refine (h.putSlot hd hj.writable ((h.slot j).append fits) fun i hij hvi _ => ?_).of_invPart_eq rfl
  rw [hj.append_key]
  exact hj.only i hij hvi

/-- The slots of the table after the append (R326). -/
theorem slot_appendSegment (j : Nat) (isNew : Bool) (g : Segment) (hj : s.writableSlot j) :
    (appendSegment j isNew g s).slot j = (s.slot j).append isNew s.peerKey g.block := by
  show (putSlot s.slots j _).getD j Slot.free = _
  rw [getD_putSlot _ _ _ _ hj.le_length, if_pos rfl]

theorem finishesInv_receiveInto (h : s.Inv) (hd : s.deliver = false) {j : Nat} {isNew : Bool}
    (hj : ReceivingSlot s j isNew) (g : Segment) : FinishesInv (receiveInto j isNew g s) := by
  rcases receiveInto_cases j isNew g s with ⟨-, e⟩ | ⟨fits, -, e⟩ | ⟨fits, -, e⟩ <;> rw [e]
  · exact discardDatagram_finishesInv h _ _
  · have hslot := slot_appendSegment j isNew g hj.writable
    have hk : (appendSegment j isNew g s).peerKey = s.peerKey := (hostPartKept_appendSegment j isNew g s).peerKey
    refine ⟨_, _, rfl, (appendSegment_inv h hd hj fits).enterDelivery ?_ ?_ ?_⟩
    · exact lt_length_putSlot _ hj.writable.le_length
    · rw [hslot]; rfl
    · rw [hslot, hk]; exact hj.append_key _
  · exact ⟨_, _, rfl, appendSegment_inv h hd hj fits⟩

theorem finishesInv_receiveSegment (h : s.Inv) (hd : s.deliver = false) (g : Segment) :
    FinishesInv (receiveSegment g s) := by
  rcases receiveSegment_cases g s with ⟨j, hl, e⟩ | ⟨hl, j, ha, e⟩ | ⟨-, -, e⟩ <;> rw [e]
  · exact finishesInv_receiveInto h hd (receivingSlot_of_lookup h hl) g
  · exact finishesInv_receiveInto h hd (receivingSlot_of_alloc hl ha) g
  · exact discardDatagram_finishesInv h _ _

theorem finishesInv_rx (h : s.Inv) (enc : Bool) : FinishesInv (rxCommand enc s) := by
  rcases rxCommand_cases enc s with
    ⟨-, e⟩ | ⟨-, -, e⟩ | ⟨-, -, -, e⟩ | ⟨-, -, -, -, e⟩ | ⟨hd, -, -, -, e⟩ <;> rw [e]
  case inr.inr.inr.inr =>
    have counted : { s with cntRx := s.cntRx + 1 }.Inv := h.of_invPart_eq rfl
    exact finishesInv_receiveSegment counted hd _
  all_goals exact h.finishesInv _ rfl

theorem commandResult_finishesInv (h : s.Inv) (i : Instr) : FinishesInv (commandResult s i) := by
  cases i
  case nop => exact h.finishesInv _ rfl
  case crcRx | crcTx | crcPb => exact finishesInv_crc h _
  case xorRx | xorTx | xorPb => exact finishesInv_xor h rfl
  case plan => exact finishesInv_plan h
  case frame | frameEnc => exact finishesInv_frame h _
  case serialize | serializeEnc => exact finishesInv_serialize h _
  case deserialize => exact finishesInv_deserialize h
  case verify => exact finishesInv_verify h
  case rx | rxDec => exact finishesInv_rx h _
  case release => exact finishesInv_release h

end Commands

theorem engineStep_inv {s t : State} (h : s.Inv) (e : engineStep s = .next t) : t.Inv := by
  rcases engineStep_cases s with ⟨-, e'⟩ | ⟨-, i, -, e'⟩ | ⟨-, _, -, e'⟩ <;> rw [e'] at e <;> cases e
  · exact h
  · exact (commandResult_finishesInv h i).applyPendingReset
  · exact (h.finishesInv .illegalCmd rfl).applyPendingReset

/-! ### The host port -/

/-- A write of a register other than CTRL and CMD does not reach the invariant's part of the state. -/
theorem invPart_writeCsr {s : State} {v : Word} {r : Csr} (hctrl : r ≠ .ctrl) (hcmd : r ≠ .cmd) :
    (s.writeCsr v r).invPart = s.invPart := by
  cases r with
  | ctrl => exact absurd rfl hctrl
  | cmd => exact absurd rfl hcmd
  | _ => rfl

/-- Only a BUSY block defers the reset (R38). -/
theorem writeCtrl_inv {s : State} (h : s.Inv) (v : Word) : (writeCtrl v s).Inv := by
  unfold writeCtrl
  split
  · split
    · exact h.resetBlock
    · next hbusy => exact h.setEngine fun _ => hbusy
  · exact h

theorem issueCommand_inv {s : State} (h : s.Inv) (w : Word) : (issueCommand w s).Inv := by
  unfold issueCommand
  split
  · have accepted : { s with engState := .busy, resetPending := s.resetPending }.Inv := h.setEngine fun _ => rfl
    exact accepted.of_invPart_eq rfl
  · exact h.of_invPart_eq rfl

theorem writeCsr_inv {s : State} (h : s.Inv) (v : Word) (r : Csr) : (s.writeCsr v r).Inv := by
  by_cases hctrl : r = .ctrl
  · subst hctrl; exact writeCtrl_inv h v
  · by_cases hcmd : r = .cmd
    · subst hcmd; exact issueCommand_inv h v
    · exact h.of_invPart_eq (invPart_writeCsr hctrl hcmd)

theorem hostWrite_inv {s t : State} {addr : Word} {width : AccessWidth} {v : Word} (h : s.Inv)
    (e : hostWrite addr width v s = .next t) : t.Inv := by
  rcases hostWrite_cases e with ⟨-, rfl⟩ | ⟨r, -, -, rfl⟩ | ⟨r, o, hl, -, rfl⟩
  · exact h.of_invPart_eq rfl
  · exact writeCsr_inv h v r
  · have fits := (locate_ram hl).2
    exact h.writeRam (by rwa [length_laneBytes])

theorem hostRead_inv {s : State} (h : s.Inv) (addr : Word) (width : AccessWidth) : (hostRead addr width s).Inv := by
  rcases hostRead_cases addr width s with ⟨-, e⟩ | ⟨-, v, e | e⟩ <;> rw [e] <;> exact h.of_invPart_eq rfl

/-- Settles O60: each event at the block, and each command the ENGINE runs, keeps the invariant. -/
theorem everyStepKeepsTheInvariant : Obligations.EveryStepKeepsTheInvariant := by
  unfold Obligations.EveryStepKeepsTheInvariant
  intro s t h hstep
  have consumed (rest : List PortEvent) : { s with arrivals := rest }.Inv := h.of_invPart_eq rfl
  rcases step_cases hstep with ⟨-, e⟩ | ⟨rest, -, e⟩ | ⟨rest, -, rfl⟩ | ⟨a, w, rest, -, rfl⟩ | ⟨a, w, v, rest, -, e⟩
  · exact engineStep_inv h e
  · exact engineStep_inv (consumed rest) e
  · exact (consumed rest).resetBlock
  · exact hostRead_inv (consumed rest) a w
  · exact hostWrite_inv (consumed rest) e

end Sys2Proof.Machine
end

section
/-! SUPPORT and proofs. What the registers store and show (spec/10_state.md R34 to R62), after reset (R67) and in every
state, and that no step changes the build they report (R41). -/

namespace Sys2Proof.Machine

/-! ### The build (R41) -/

theorem applyPendingReset_build (s : State) : (applyPendingReset s).build = s.build := by
  rcases applyPendingReset_cases s with ⟨-, e⟩ | ⟨-, e⟩ <;> rw [e]
  exact s.resetBlock_build

theorem writeCtrl_build (v : Word) (s : State) : (writeCtrl v s).build = s.build := by
  unfold writeCtrl
  split
  · split <;> rfl
  · rfl

theorem issueCommand_build (w : Word) (s : State) : (issueCommand w s).build = s.build := by
  unfold issueCommand
  split <;> rfl

theorem writeCsr_build (s : State) (v : Word) (r : Csr) : (s.writeCsr v r).build = s.build := by
  cases r with
  | ctrl => exact writeCtrl_build v s
  | cmd => exact issueCommand_build v s
  | _ => rfl

theorem engineStep_build {s t : State} (e : engineStep s = .next t) : t.build = s.build := by
  rcases engineStep_cases s with ⟨-, e'⟩ | ⟨-, i, -, e'⟩ | ⟨-, _, -, e'⟩ <;> rw [e'] at e <;> cases e
  · rfl
  · rw [applyPendingReset_build, (commandResult_hostPart i s).build]
  · exact applyPendingReset_build _

theorem hostRead_build (addr : Word) (width : AccessWidth) (s : State) :
    (hostRead addr width s).build = s.build := by
  rcases hostRead_cases addr width s with ⟨-, e⟩ | ⟨-, v, e | e⟩ <;> rw [e] <;> rfl

theorem hostWrite_build {s t : State} {addr : Word} {width : AccessWidth} {v : Word}
    (e : hostWrite addr width v s = .next t) : t.build = s.build := by
  rcases hostWrite_cases e with ⟨-, rfl⟩ | ⟨r, -, -, rfl⟩ | ⟨r, o, -, -, rfl⟩
  · rfl
  · exact writeCsr_build s v r
  · rfl

theorem step_build {s t : State} (h : step s = .next t) : t.build = s.build := by
  rcases step_cases h with ⟨-, e⟩ | ⟨rest, -, e⟩ | ⟨rest, -, rfl⟩ | ⟨a, w, rest, -, rfl⟩ | ⟨a, w, v, rest, -, e⟩
  · exact engineStep_build e
  · exact (engineStep_build e).trans rfl
  · rfl
  · exact (hostRead_build a w _).trans rfl
  · exact (hostWrite_build e).trans rfl

/-- Settles O58: no event and no command writes the build, and ID and PARAM0..2 show nothing else. -/
theorem noStepChangesTheBuild : Obligations.NoStepChangesTheBuild := by
  unfold Obligations.NoStepChangesTheBuild
  intro s t h
  have hb := step_build h
  refine ⟨hb, ?_⟩
  simp only [State.readCsr, hb, and_self]

/-! ### Fields packed into words -/

/-- Concatenation is arithmetic on the fields. -/
theorem toNat_append_eq {m n : Nat} (hi : BitVec m) (lo : BitVec n) :
    (hi ++ lo).toNat = hi.toNat * 2 ^ n + lo.toNat := by
  rw [BitVec.toNat_append, ← Nat.shiftLeft_add_eq_or_of_lt lo.isLt, Nat.shiftLeft_eq]

theorem toNat_append_flag {n : Nat} (hi : BitVec n) (b : Bool) :
    (hi ++ BitVec.ofBool b).toNat = 2 * hi.toNat + if b then 1 else 0 := by
  rw [toNat_append_eq]
  cases b <;> simp [Nat.mul_comm]

/-- Two flags, from bit 0 up. -/
theorem toNat_flags2 {n : Nat} (a b : Bool) :
    (0#n ++ BitVec.ofBool b ++ BitVec.ofBool a).toNat = (if a then 1 else 0) + (if b then 2 else 0) := by
  simp only [toNat_append_flag, BitVec.toNat_ofNat, Nat.zero_mod]
  grind

/-- Four flags, from bit 0 up. -/
theorem toNat_flags4 {n : Nat} (a b c d : Bool) :
    (0#n ++ BitVec.ofBool d ++ BitVec.ofBool c ++ BitVec.ofBool b ++ BitVec.ofBool a).toNat =
      (if a then 1 else 0) + (if b then 2 else 0) + (if c then 4 else 0) + (if d then 8 else 0) := by
  simp only [toNat_append_flag, BitVec.toNat_ofNat, Nat.zero_mod]
  grind

/-- The four words of a key are its bits (R58, R60, R62). -/
theorem keyWord_append (k : PeerKey) : keyWord k 3 ++ keyWord k 2 ++ keyWord k 1 ++ keyWord k 0 = k := by
  apply BitVec.eq_of_getLsbD_eq
  intro i hi
  simp only [keyWord, BitVec.getLsbD_append, BitVec.getLsbD_extractLsb']
  grind

theorem keyWord_zero (i : Nat) : keyWord 0 i = 0 := by
  simp [keyWord]

theorem toNat_rxInfo_word (r : RxInfo) :
    r.word.toNat = r.slot.toNat + (if r.appended then 256 else 0) + (if r.isNew then 512 else 0) := by
  simp only [RxInfo.word, toNat_append_byte, toNat_flags2]
  split <;> split <;> omega

theorem toNat_setWidth_of_le {m n : Nat} (h : m ≤ n) (x : BitVec m) : (x.setWidth n).toNat = x.toNat := by
  rw [BitVec.toNat_setWidth, Nat.mod_eq_of_lt (x.isLt.trans_le (Nat.pow_le_pow_right (by decide) h))]

/-! ### What the read-only registers show -/

theorem toNat_readCsr_ctrl (s : State) : (s.readCsr .ctrl).toNat = if s.resetPending then 1 else 0 := by
  simp only [State.readCsr]
  cases s.resetPending <;> rfl

theorem toNat_readCsr_segFlags (s : State) :
    (s.readCsr .segFlags).toNat =
      (if s.segTotal = s.segIndex then 1 else 0) + (if s.segTotal = 0 then 2 else 0) +
      (if s.integrityOk then 4 else 0) + (if s.integrityValid then 8 else 0) := by
  simp only [State.readCsr, State.segFlags, toNat_flags4, isFinal, beq_iff_eq, eq_comm (a := s.segIndex)]

/-- Settles O48: flags and fields by their bit positions; every other register shows its field as it is. -/
theorem readOnlyRegistersShowTheirState : Obligations.ReadOnlyRegistersShowTheirState := by
  unfold Obligations.ReadOnlyRegistersShowTheirState
  intro s
  have outLen : (s.readCsr .outLen).toNat = s.outLen % 2 ^ 32 := BitVec.toNat_ofNat _ _
  have outSlot : (s.readCsr .outSlot).toNat = s.outSlot % 256 :=
    (toNat_setWidth_of_le (by decide) _).trans (BitVec.toNat_ofNat _ _)
  exact ⟨rfl, toNat_readCsr_ctrl s, rfl, rfl, toNat_readCsr_segFlags s, toNat_setWidth_of_le (by decide) _,
    toNat_rxInfo_word _, outLen, rfl, outSlot, keyWord_append _, rfl, rfl, rfl, rfl, rfl⟩

/-! ### The slot inspection registers -/

theorem selectedSlot_of_lt {s : State} {n : Nat} (hn : s.build.peerSlots = .finite n) (h : s.slotSel.toNat < n) :
    s.selectedSlot = s.slot s.slotSel.toNat := by
  simp [State.selectedSlot, hn, tableHolds, h]

theorem selectedSlot_of_le {s : State} {n : Nat} (hn : s.build.peerSlots = .finite n) (h : n ≤ s.slotSel.toNat) :
    s.selectedSlot = Slot.free := by
  simp [State.selectedSlot, hn, tableHolds, h]

theorem deliveringSlot_iff_of_lt {s : State} {n j : Nat} (hn : s.build.peerSlots = .finite n) (h : j < n) :
    s.deliveringSlot j = true ↔ s.deliver = true ∧ s.outSlot = j := by
  simp [State.deliveringSlot, hn, tableHolds, h]

theorem deliveringSlot_of_le {s : State} {n j : Nat} (hn : s.build.peerSlots = .finite n) (h : n ≤ j) :
    s.deliveringSlot j = false := by
  simp [State.deliveringSlot, hn, tableHolds, h]

/-- A selected slot that is free and not delivering shows 0 in every inspection register (R62). -/
theorem readCsr_slotCsrs_of_free {s : State} (hfree : s.selectedSlot = Slot.free)
    (hdel : s.deliveringSlot s.slotSel.toNat = false) {r : Csr} (hr : r ∈ slotCsrs) : s.readCsr r = 0 := by
  simp only [slotCsrs, List.mem_cons, List.not_mem_nil, or_false] at hr
  rcases hr with rfl | rfl | rfl | rfl | rfl | rfl | rfl <;>
    simp only [State.readCsr, State.slotInfo, hfree, hdel] <;> rfl

/-- Settles O57: SLOT_SEL below PEER_SLOTS selects that slot; at or past it, one that reads 0. -/
theorem slotInspectionShowsTheSelectedSlot : Obligations.SlotInspectionShowsTheSelectedSlot := by
  unfold Obligations.SlotInspectionShowsTheSelectedSlot
  refine fun s n hn => ⟨fun hlt => ?_, fun hle r hr => ?_⟩
  · simp only [State.readCsr, selectedSlot_of_lt hn hlt, State.slotInfo, toNat_flags2,
      deliveringSlot_iff_of_lt hn hlt, keyWord_append, and_self]
  · exact readCsr_slotCsrs_of_free (selectedSlot_of_le hn hle) (deliveringSlot_of_le hn hle) hr

/-! ### What the registers store -/

theorem setWidth_eq_ofNat {m : Nat} (n : Nat) (v : BitVec m) : v.setWidth n = BitVec.ofNat n v.toNat :=
  BitVec.eq_of_toNat_eq (by rw [BitVec.toNat_setWidth, BitVec.toNat_ofNat])

/-- A field of w bits of a word reads back as the word's value mod 2^w (R36). -/
theorem setWidth_setWidth_word (v : Word) (w : Nat) :
    (v.setWidth w).setWidth 32 = BitVec.ofNat 32 (v.toNat % 2 ^ w) := by
  rw [setWidth_eq_ofNat, BitVec.toNat_setWidth]

/-- The read-write registers with the widths of their fields (R36). -/
def rwFields : List (Csr × Nat) :=
  [(.argOff, 16), (.argLen, 16), (.irqEnable, 5), (.budget, 16), (.keyLen, 8), (.payloadLen, 32), (.segCrc, 32),
    (.segTotal, 16), (.segIndex, 16), (.blkLen, 16), (.rxLen, 16), (.peerKey0, 32), (.peerKey1, 32),
    (.peerKey2, 32), (.peerKey3, 32), (.slotSel, 8)]

/-- R36: the write cuts the word to the field, and the read extends the field with zeros. -/
theorem readCsr_writeCsr_rw (s : State) (v : Word) {r : Csr} {w : Nat} (h : (r, w) ∈ rwFields) :
    (s.writeCsr v r).readCsr r = BitVec.ofNat 32 (v.toNat % 2 ^ w) := by
  rw [← setWidth_setWidth_word]
  simp only [rwFields, List.mem_cons, List.not_mem_nil, or_false, Prod.mk.injEq] at h
  rcases h with ⟨rfl, rfl⟩ | ⟨rfl, rfl⟩ | ⟨rfl, rfl⟩ | ⟨rfl, rfl⟩ | ⟨rfl, rfl⟩ | ⟨rfl, rfl⟩ | ⟨rfl, rfl⟩ |
    ⟨rfl, rfl⟩ | ⟨rfl, rfl⟩ | ⟨rfl, rfl⟩ | ⟨rfl, rfl⟩ | ⟨rfl, rfl⟩ | ⟨rfl, rfl⟩ | ⟨rfl, rfl⟩ | ⟨rfl, rfl⟩ | ⟨rfl, rfl⟩
  all_goals simp only [State.writeCsr, State.readCsr, BitVec.setWidth_eq]

/-- The registers whose write may change the state: R34's access modes RW, RW1C and those of CTRL and CMD. -/
def writableCsrs : List Csr := [.ctrl, .cmd, .faults, .irqStatus] ++ rwFields.map Prod.fst

/-- A write of a read-only register has no effect (R35). -/
theorem writeCsr_readOnly (s : State) (v : Word) {r : Csr} (h : r ∉ writableCsrs) : s.writeCsr v r = s := by
  cases r
  case ctrl | cmd | faults | irqStatus | argOff | argLen | irqEnable | budget | keyLen | payloadLen | segCrc
      | segTotal | segIndex | blkLen | rxLen | peerKey0 | peerKey1 | peerKey2 | peerKey3 | slotSel =>
    exact absurd (by decide) h
  all_goals rfl

/-- A write of a bit clears it, for the bits of a W1C field (R35). -/
theorem getLsbD_and_not_setWidth {w : Nat} (x : BitVec w) (v : Word) {i : Nat} (hi : i < w) :
    (x &&& ~~~ (v.setWidth w)).getLsbD i = (x.getLsbD i && !v.getLsbD i) := by
  simp [hi]

/-- Settles O46: each write stores one field, and what it stores depends on the access mode alone. -/
theorem registersStoreTheirFields : Obligations.RegistersStoreTheirFields := by
  unfold Obligations.RegistersStoreTheirFields
  intro s v r
  refine ⟨fun w h => readCsr_writeCsr_rw s v h, rfl, rfl, rfl, rfl, rfl, rfl, rfl, rfl, rfl, rfl, rfl, rfl, rfl, rfl,
    rfl, rfl, fun hr => writeCsr_readOnly s v ?_, fun i hi => getLsbD_and_not_setWidth _ v hi,
    fun i hi => getLsbD_and_not_setWidth _ v hi, rfl, rfl, toNat_setWidth_of_le (by decide) _,
    toNat_setWidth_of_le (by decide) _⟩
  revert r
  decide

/-! ### The reset state -/

/-- PARAM0 by its fields: B_MAX, KEY_MAX and RX_FRAME_MODE (R41). -/
theorem param0Word_eq (b : Build) :
    param0Word b = BitVec.ofNat 32 (b.bMax.toNat + 32 * 2 ^ 16 + if b.frameMode = .full then 2 ^ 24 else 0) := by
  apply BitVec.eq_of_toNat_eq
  have hB := b.bMax.isLt
  rw [param0Word, toNat_append_eq, BitVec.toNat_ofNat]
  cases b.frameMode
  · show 32 * 2 ^ 16 + _ = (_ + 0) % _
    omega
  · show 288 * 2 ^ 16 + _ = (_ + 2 ^ 24) % _
    omega

theorem selectedSlot_resetOf (b : Build) : (State.resetOf b).selectedSlot = Slot.free := by
  unfold State.selectedSlot
  rw [slot_resetOf, ite_self]

/-- Settles O8: the build shows in PARAM0..2, FINAL and PROG_NAN follow T = I = 0, and all else reads 0. -/
theorem resetLeavesTheSpecifiedState : Obligations.ResetLeavesTheSpecifiedState := by
  unfold Obligations.ResetLeavesTheSpecifiedState
  refine fun b => ⟨fun r => ?_, fun _ => rfl, fun n hn => ?_, fun j => ?_, rfl, rfl, rfl, rfl, ?_⟩
  · cases r
    case param0 => exact param0Word_eq b
    case param1 => show limitWord b.peerSlots = _; cases b.peerSlots <;> rfl
    case param2 => show limitWord b.slotBytes = _; cases b.slotBytes <;> rfl
    case slotInfo | slotCount | slotLen | slotKey0 | slotKey1 | slotKey2 | slotKey3 =>
      exact readCsr_slotCsrs_of_free (selectedSlot_resetOf b) rfl (by decide)
    -- these three read no build parameter, so the reset state of any build will do
    case status => show State.reset.status = 0; decide
    case segFlags => show State.reset.segFlags = 3; decide
    case rxInfo => show RxInfo.zero.word = 0; decide
    case outPeer0 | outPeer1 | outPeer2 | outPeer3 => exact keyWord_zero _
    all_goals rfl
  · simp [State.resetOf, hn, State.freeTable]
  · rw [slot_resetOf]
    exact ⟨rfl, rfl, rfl, rfl, fun _ => rfl⟩
  · simp [State.irqOutput, State.resetOf]

end Sys2Proof.Machine
end

section
/-! SUPPORT and proofs. The ENGINE's turn and the host port (spec/20_memory.md): what each address and width reaches,
and what reads and writes of windows, OUTWIN, registers and unmapped addresses do. -/

namespace Sys2Proof.Machine

/-! ### The ENGINE's turn (R130) -/

/-- The ENGINE's turn is next: its event is due, or nothing is (log 3). -/
theorem step_of_engine_next {s : State} {rest : List PortEvent}
    (h : (s.arrivals = [] ∧ rest = []) ∨ s.arrivals = .engine :: rest) :
    step s = engineStep { s with arrivals := rest } := by
  rcases h with ⟨hnil, rfl⟩ | hdue
  · have same : { s with arrivals := [] } = s := by rw [← hnil]
    rw [same, step, hnil]
  · rw [step, hdue]
    rfl

theorem engineStep_idle {s : State} (h : s.engState = .idle) : engineStep s = .next s := by
  rw [engineStep, h]

/-- A BUSY engine runs the command that PENDING decodes to, to its end (R130, R453). -/
theorem engineStep_busy {s : State} {i : Instr} (h : s.engState = .busy) (hd : decode s.pending = .ok i) :
    engineStep s = endEngineStep (exec i s) := by
  rw [engineStep, h, hd]

/-- Settles O4: the ENGINE's turn runs the decoded command, and `applyPendingReset` is the reset at its end. -/
theorem stepRunsThePendingCommand : Obligations.StepRunsThePendingCommand := by
  unfold Obligations.StepRunsThePendingCommand
  intro s rest i hnext hbusy hdecode
  have runs : engineStep { s with arrivals := rest } = endEngineStep (exec i { s with arrivals := rest }) :=
    engineStep_busy hbusy hdecode
  rw [step_of_engine_next hnext, runs, exec_eq_commandResult]
  rfl

/-- Settles O6: the ENGINE's turn leaves an IDLE block as it is. -/
theorem idleBlockWaits : Obligations.IdleBlockWaits := by
  unfold Obligations.IdleBlockWaits
  refine fun s hidle => ⟨fun hnil => ?_, fun rest hdue => ?_⟩
  · rw [step, hnil]
    exact engineStep_idle hidle
  · rw [step_of_engine_next (.inr hdue)]
    exact engineStep_idle hidle

/-! ### The address map (R106, R108, R109) -/

theorem AccessWidth.bytes_pos (w : AccessWidth) : 0 < w.bytes := by
  cases w <;> decide

/-- The table of R109 is `AccessWidth.bytes`. -/
theorem AccessWidth.bytes_eq_of_mem {w : AccessWidth} {n : Nat}
    (h : (w, n) ∈ [(AccessWidth.w8, 1), (.w16, 2), (.w32, 4)]) : w.bytes = n := by
  simp only [List.mem_cons, List.not_mem_nil, or_false, Prod.mk.injEq] at h
  rcases h with ⟨rfl, rfl⟩ | ⟨rfl, rfl⟩ | ⟨rfl, rfl⟩ <;> rfl

/-- A limit admits a number that does not exceed the bound, if it has one (R9). -/
theorem Limit.admits_iff (l : Limit) (n : Nat) : l.admits n = true ↔ ∀ m, l = .finite m → n ≤ m := by
  cases l <;> simp [Limit.admits]

/-- The registers at their offsets (R34). -/
def csrOffsets : List (Nat × Csr) :=
  [(0x000, .id), (0x004, .param0), (0x008, .param1), (0x00C, .param2), (0x010, .ctrl), (0x014, .status),
    (0x018, .cmd), (0x01C, .argOff), (0x020, .argLen), (0x024, .result), (0x028, .faults), (0x02C, .irqStatus),
    (0x030, .irqEnable), (0x040, .budget), (0x044, .keyLen), (0x048, .payloadLen), (0x050, .segCrc),
    (0x054, .segTotal), (0x058, .segIndex), (0x05C, .blkLen), (0x060, .segFlags), (0x064, .progPct),
    (0x068, .rxLen), (0x06C, .txLen), (0x070, .peerKey0), (0x074, .peerKey1), (0x078, .peerKey2),
    (0x07C, .peerKey3), (0x080, .rxInfo), (0x090, .outLen), (0x094, .outCount), (0x098, .outSlot),
    (0x0A0, .outPeer0), (0x0A4, .outPeer1), (0x0A8, .outPeer2), (0x0AC, .outPeer3), (0x0B0, .cntRx),
    (0x0B4, .cntShort), (0x0B8, .cntDrop), (0x0BC, .cntBadCrc), (0x0C0, .cntDone), (0x0D0, .slotSel),
    (0x0D4, .slotInfo), (0x0D8, .slotCount), (0x0DC, .slotLen), (0x0E0, .slotKey0), (0x0E4, .slotKey1),
    (0x0E8, .slotKey2), (0x0EC, .slotKey3)]

theorem mem_csrOffsets_iff (a : Nat) (r : Csr) : (a, r) ∈ csrOffsets ↔ Csr.atOffset a = some r := by
  constructor
  · have listed : ∀ p ∈ csrOffsets, Csr.atOffset p.1 = some p.2 := by decide
    exact listed (a, r)
  · intro h
    unfold Csr.atOffset at h
    split at h <;> cases h <;> decide

/-- Every register is a whole word below 0x1000 (R34). -/
theorem atOffset_word {a : Nat} {r : Csr} (h : Csr.atOffset a = some r) : a % 4 = 0 ∧ a < 0x1000 := by
  have words : ∀ p ∈ csrOffsets, p.1 % 4 = 0 ∧ p.1 < 0x1000 := by decide
  exact words (a, r) ((mem_csrOffsets_iff a r).2 h)

/-- What an access that reaches something meets: its alignment, and the region it lies in (R106, R108). `locate_ram`
says where in a RAM. -/
theorem locate_cases {b : Build} {addr : Word} {w : AccessWidth} {g : Target} (h : locate b addr w = some g) :
    addr.toNat % w.bytes = 0 ∧
      ((∃ r, g = .csr r ∧ w = .w32 ∧ Csr.atOffset addr.toNat = some r) ∨
      (∃ r o, g = .ram r o) ∨
      (∃ o, g = .outwin o ∧ addr.toNat = 0x80000000 + o ∧ b.slotBytes.admits (o + w.bytes) = true)) := by
  have ram (r : Ram) (off : Nat) (e : ramTarget b r off w.bytes = some g) : ∃ r o, g = .ram r o := by
    unfold ramTarget at e
    split at e <;> cases e
    exact ⟨_, _, rfl⟩
  unfold locate at h
  dsimp only at h
  split_ifs at h with haligned hcsr hw hkey hgap hrx htx hpb hgap' hout <;> refine ⟨not_not.1 haligned, ?_⟩
  · exact .inl (by simpa [hw, eq_comm, and_comm] using h)
  iterate 4 exact .inr (.inl (ram _ _ h))
  · cases h
    exact .inr (.inr ⟨_, rfl, by omega, hout⟩)

/-- An aligned access that begins in a RAM reaches it when it lies whole within it (R108). -/
theorem locate_of_in_ram {b : Build} {addr : Word} {w : AccessWidth} {r : Ram} (haligned : addr.toNat % w.bytes = 0)
    (hlo : r.base ≤ addr.toNat) (hhi : addr.toNat < r.base + r.size b) :
    locate b addr w = ramTarget b r (addr.toNat - r.base) w.bytes := by
  have hB := b.bMax.isLt
  unfold locate
  -- each window is the first region of the map whose upper bound the address does not exceed
  cases r <;> simp only [Ram.base, Ram.size, Config.keyMax] at hlo hhi ⊢
  all_goals
    repeat rw [if_neg (by omega)]
    rw [if_pos (by omega)]

/-- The RAM windows: aligned, and whole within the RAM (R106, R108). -/
theorem locate_ram_iff {b : Build} {addr : Word} {w : AccessWidth} {r : Ram} {o : Nat} :
    locate b addr w = some (.ram r o) ↔
      addr.toNat % w.bytes = 0 ∧ addr.toNat = r.base + o ∧ o + w.bytes ≤ r.size b := by
  constructor
  · exact fun h => ⟨(locate_cases h).1, locate_ram h⟩
  · rintro ⟨haligned, haddr, hfit⟩
    have hpos := w.bytes_pos
    rw [locate_of_in_ram (r := r) haligned (by omega) (by omega), ramTarget, haddr, Nat.add_sub_cancel_left,
      if_pos hfit]

/-- OUTWIN: aligned, and within SLOT_BYTES (R106, R108). -/
theorem locate_outwin_iff {b : Build} {addr : Word} {w : AccessWidth} {o : Nat} :
    locate b addr w = some (.outwin o) ↔
      addr.toNat % w.bytes = 0 ∧ addr.toNat = 0x80000000 + o ∧ b.slotBytes.admits (o + w.bytes) = true := by
  constructor
  · intro h
    obtain ⟨haligned, ⟨r, e, -⟩ | ⟨r, o', e⟩ | ⟨o', e, haddr, hfit⟩⟩ := locate_cases h <;> cases e
    exact ⟨haligned, haddr, hfit⟩
  · rintro ⟨haligned, haddr, hfit⟩
    simp only [locate, haddr, Nat.add_sub_cancel_left, hfit] at haligned ⊢
    repeat rw [if_neg (by omega)]
    rfl

/-- The registers: whole words only, at the offsets of R34 (R108). -/
theorem locate_csr_iff {b : Build} {addr : Word} {w : AccessWidth} {r : Csr} :
    locate b addr w = some (.csr r) ↔ w = .w32 ∧ Csr.atOffset addr.toNat = some r := by
  constructor
  · intro h
    obtain ⟨-, ⟨r', e, hw, hr⟩ | ⟨r', o, e⟩ | ⟨o, e, -⟩⟩ := locate_cases h <;> cases e
    exact ⟨hw, hr⟩
  · rintro ⟨rfl, hr⟩
    obtain ⟨haligned, hlt⟩ := atOffset_word hr
    simp [locate, AccessWidth.bytes, haligned, hlt, hr]

/-- The bases and sizes of R106, written out. -/
theorem mem_ramRegions_iff (b : Build) (r : Ram) (base size : Nat) :
    (r, base, size) ∈ [(Ram.key, 0x1000, 32), (.rxbuf, 0x10000, b.bMax.toNat), (.txbuf, 0x20000, b.bMax.toNat),
      (.pbuf, 0x30000, b.bMax.toNat)] ↔ base = r.base ∧ size = r.size b := by
  cases r <;> simp [Ram.base, Ram.size, Config.keyMax]

/-- Settles O42: one region at a time, each reached exactly by the accesses that lie whole within it. -/
theorem addressMapIsTheSpecified : Obligations.AddressMapIsTheSpecified := by
  unfold Obligations.AddressMapIsTheSpecified
  intro b addr w n hn
  obtain rfl := AccessWidth.bytes_eq_of_mem hn
  refine ⟨fun r o => ?_, fun o => ?_, fun r => ?_⟩
  · simp only [mem_ramRegions_iff, locate_ram_iff, and_assoc, exists_and_left, exists_eq_left]
  · rw [locate_outwin_iff, Limit.admits_iff]
  · rw [locate_csr_iff, ← mem_csrOffsets_iff]
    rfl

/-! ### Accesses of no location and of OUTWIN (R114, R115) -/

/-- BUS_ERR in FAULTS and FAULT in IRQ_STATUS (R44, R45, R406). -/
theorem raiseFault_busErr (s : State) :
    raiseFault .busErr s = { s with faults := s.faults ||| 0x8, irqStatus := s.irqStatus ||| 0x10 } := rfl

/-- A read of no location is a bus error and answers 0 (R115). -/
theorem hostRead_none {s : State} {addr : Word} {w : AccessWidth} (h : locate s.build addr w = none) :
    hostRead addr w s = (raiseFault .busErr s).reply 0 := by
  simp [hostRead, h]

/-- A write of no location is a bus error (R115). -/
theorem hostWrite_none {s : State} {addr v : Word} {w : AccessWidth} (h : locate s.build addr w = none) :
    hostWrite addr w v s = .next (raiseFault .busErr s) := by
  simp [hostWrite, h]

/-- Settles O44: no location is never a hazard, and OUTWIN is one only in the write set of RX or RELEASE. -/
theorem busErrorsAreRecordedAndHarmless : Obligations.BusErrorsAreRecordedAndHarmless := by
  unfold Obligations.BusErrorsAreRecordedAndHarmless
  refine fun s addr v w => ⟨fun hnone => ?_, ?_⟩
  · rw [hostRead_none hnone, raiseFault_busErr]
    rfl
  · rintro (hnone | ⟨⟨o, hout⟩, hrun⟩)
    · rw [hostWrite_none hnone, raiseFault_busErr]
    · rw [hostWrite_outwin hout, footprint_writesOutwin_eq_false hrun, raiseFault_busErr]
      rfl

/-- OUTWIN byte by byte: the delivering slot's store below OUT_LEN, 0 past it (R114). -/
theorem State.outByte_eq (s : State) (o : Nat) :
    s.outByte o = if s.deliver = true ∧ o < s.outLen then (s.slot s.outSlot).store.read o else 0 := by
  simp [State.outByte]

/-- Settles O45: with OUTWIN in no write set, every lane of the read is its byte of OUTWIN. -/
theorem outwinShowsTheDeliveredPayload : Obligations.OutwinShowsTheDeliveredPayload := by
  unfold Obligations.OutwinShowsTheDeliveredPayload
  intro s addr w n o hn hrun hloc
  obtain rfl := AccessWidth.bytes_eq_of_mem hn
  obtain ⟨a, hread, hlanes⟩ :=
    readWindow_spec s w.bytes (fun i => s.outByte (o + i)) (fun _ => s.footprint.writesOutwin)
  rw [← hostRead_outwin hloc] at hread
  simp only [footprint_writesOutwin_eq_false hrun] at hread hlanes
  refine ⟨a, by simpa using hread, fun k hk => ?_⟩
  rw [hlanes k hk, State.outByte_eq, if_neg Bool.false_ne_true, ← ite_and]

/-! ### Windows and registers in IDLE (R110 to R113) -/

/-- The bytes of the access are its lanes; past them the string is over (R102). -/
theorem byteAt_laneBytes (v : Word) (n i : Nat) : byteAt (laneBytes v n) i = if i < n then lane v i else 0 := by
  by_cases h : i < n <;> simp [byteAt, laneBytes, h]

/-- The lanes are digits in base 256, lane 0 the lowest (R102). -/
theorem toNat_laneWord (bs : List Byte) :
    (laneWord bs).toNat =
      (((byteAt bs 3).toNat * 256 + (byteAt bs 2).toNat) * 256 + (byteAt bs 1).toNat) * 256 + (byteAt bs 0).toNat := by
  simp only [laneWord, toNat_append_byte]

theorem toNat_lane (v : Word) (i : Nat) : (lane v i).toNat = v.toNat / 2 ^ (8 * i) % 256 :=
  toNat_extract_byte v (8 * i)

/-- The lanes of a word, answered by a read of the same width, are its low bytes (R102). -/
theorem laneWord_laneBytes (v : Word) (w : AccessWidth) :
    laneWord (laneBytes v w.bytes) = BitVec.ofNat 32 (v.toNat % 2 ^ (8 * w.bytes)) := by
  apply BitVec.eq_of_toNat_eq
  have hv := v.isLt
  simp only [toNat_laneWord, byteAt_laneBytes, apply_ite BitVec.toNat, toNat_lane, BitVec.ofNat_eq_ofNat,
    BitVec.toNat_ofNat, Nat.zero_mod]
  cases w <;> simp only [AccessWidth.bytes, Nat.reduceLT, if_true, if_false, Nat.reduceMul, Nat.reducePow] <;> omega

/-- A window read of which no byte is free answers the current bytes (R111). -/
theorem readWindow_of_not_free (s : State) (n : Nat) (value : Nat → Byte) {free : Nat → Bool}
    (h : ∀ i, free i = false) : readWindow s n value free = s.reply (laneWord ((List.range n).map value)) := by
  simp [readWindow, h]

/-- In IDLE a window read answers the bytes of the RAM (R111). -/
theorem hostRead_ram_idle {s : State} {addr : Word} {w : AccessWidth} {r : Ram} {o : Nat} (hidle : s.engState = .idle)
    (h : locate s.build addr w = some (.ram r o)) :
    hostRead addr w s = s.reply (laneWord ((List.range w.bytes).map fun i => s.ram r (o + i))) := by
  rw [hostRead_ram h, readWindow_of_not_free]
  intro i
  rw [footprint_idle hidle]
  rfl

/-- In IDLE a window write stores the byte lanes (R113). -/
theorem hostWrite_ram_idle {s : State} {addr v : Word} {w : AccessWidth} {r : Ram} {o : Nat}
    (hidle : s.engState = .idle) (h : locate s.build addr w = some (.ram r o)) :
    hostWrite addr w v s = .next (s.writeRam r o (laneBytes v w.bytes)) := by
  rw [hostWrite_ram h, footprint_idle hidle, if_neg]
  simp [Footprint.hazardByte, Footprint.none]

/-- A window shows the lane that was written (R102, R113). -/
theorem ram_writeRam_laneBytes (s : State) (r : Ram) (o : Nat) (v : Word) {n i : Nat} (h : i < n) :
    (s.writeRam r o (laneBytes v n)).ram r (o + i) = lane v i := by
  rw [State.ram_writeRam_same, length_laneBytes, if_pos (by omega), Nat.add_sub_cancel_left, byteAt_laneBytes, if_pos h]

/-- Settles O43: the write stores the lanes at `Ram.base + o`, and the read of the same window finds them there. -/
theorem windowReadsBackWhatWasWritten : Obligations.WindowReadsBackWhatWasWritten := by
  unfold Obligations.WindowReadsBackWhatWasWritten
  intro s addr v w r o hidle hloc
  refine ⟨_, hostWrite_ram_idle hidle hloc, fun i hi => ram_writeRam_laneBytes s r o v hi, fun a ha => ?_, rfl, ?_⟩
  · rw [State.writeRam_mem, Memory.read_writeBytes, length_laneBytes, if_neg ha]
  · have stored : (List.range w.bytes).map (fun i => (s.writeRam r o (laneBytes v w.bytes)).ram r (o + i)) =
        laneBytes v w.bytes :=
      List.map_congr_left fun i hi => ram_writeRam_laneBytes s r o v (List.mem_range.1 hi)
    have read := hostRead_ram_idle (s := s.writeRam r o (laneBytes v w.bytes)) hidle hloc
    rw [read, stored, laneWord_laneBytes]
    rfl

/-- Settles O47: in IDLE no register is in a write set or a hazard. -/
theorem idlePortReadsAndWritesRegisters : Obligations.IdlePortReadsAndWritesRegisters := by
  unfold Obligations.IdlePortReadsAndWritesRegisters
  intro s addr v r hidle hloc
  rw [hostRead_csr hloc, hostWrite_csr hloc, footprint_idle hidle]
  exact ⟨rfl, rfl⟩

end Sys2Proof.Machine
end

section
/-! SUPPORT and proofs. The decoder (spec/30_encoding.md R150 to R159): a word and its fields determine each other, the
words that pass the checks of R156 are those of the table of R159, and `decode` is the inverse of `encode`. -/

namespace Sys2Proof

/-! ### A word and its fields (R150) -/

/-- A bit as a field one bit wide. -/
theorem ofBool_getLsbD_eq_extractLsb' {n : Nat} (x : BitVec n) (i : Nat) :
    BitVec.ofBool (x.getLsbD i) = x.extractLsb' i 1 := by
  ext j hj
  obtain rfl : j = 0 := by omega
  simp

/-- The five fields cover the word: they meet end to end (R150). -/
theorem packFields_fieldsOf (w : Word) : packFields (fieldsOf w) = w := by
  simp only [packFields, fieldsOf, ofBool_getLsbD_eq_extractLsb']
  have join {start len len' : Nat} :
      w.extractLsb' (start + len) len' ++ w.extractLsb' start len = w.extractLsb' start (len' + len) :=
    BitVec.extractLsb'_append_extractLsb'_eq_extractLsb' rfl
  calc w.extractLsb' 12 20 ++ w.extractLsb' 10 2 ++ w.extractLsb' 9 1 ++ w.extractLsb' 8 1 ++ w.extractLsb' 0 8
      = w.extractLsb' 10 22 ++ w.extractLsb' 9 1 ++ w.extractLsb' 8 1 ++ w.extractLsb' 0 8 := by
        rw [join (start := 10) (len := 2)]
    _ = w.extractLsb' 9 23 ++ w.extractLsb' 8 1 ++ w.extractLsb' 0 8 := by rw [join (start := 9) (len := 1)]
    _ = w.extractLsb' 8 24 ++ w.extractLsb' 0 8 := by rw [join (start := 8) (len := 1)]
    _ = w.extractLsb' 0 32 := join
    _ = w := BitVec.extractLsb'_eq_self

/-- The fields of every command are legal, and its word has them (R159): the lemmas of `EncodesWellFormed`. -/
theorem encodesWellFormed (i : Instr) : Laws.EncodesWellFormed.Statement i := by
  cases i
  open Laws.EncodesWellFormed in
  exacts [nop, crcRx, crcTx, crcPb, xorRx, xorTx, xorPb, plan, frame, frameEnc, serialize, serializeEnc, deserialize,
    verify, rx, rxDec, release]

theorem wellFormed_fields (i : Instr) : i.fields.wellFormed = true :=
  (encodesWellFormed i).1

@[simp] theorem fieldsOf_encode (i : Instr) : fieldsOf (encode i) = i.fields :=
  (encodesWellFormed i).2

/-! ### The legal fields are those of the commands (R152 to R154, R156) -/

theorem reservedClear_iff (f : CommandFields) : f.reservedClear = true ↔ f.reserved = 0 ∧ f.reserved9 = false := by
  simp [CommandFields.reservedClear]

theorem opcodeDefined_iff (f : CommandFields) : f.opcodeDefined = true ↔ f.opcode.toNat ≤ 9 :=
  decide_eq_true_iff

theorem encAllowed_iff (f : CommandFields) :
    f.encAllowed = true ↔ (f.enc = true → f.opcode.toNat ∈ [4, 5, 8]) := by
  cases h : f.enc <;> simp [CommandFields.encAllowed, h, ← BitVec.toNat_inj, or_assoc]

theorem bufAllowed_iff (f : CommandFields) : f.bufAllowed = true ↔ (f.buf ≠ 0 → f.opcode.toNat ∈ [1, 2]) := by
  rw [ne_eq, ← or_iff_not_imp_left]
  simp [CommandFields.bufAllowed, ← BitVec.toNat_inj, or_assoc]

theorem bufDefined_iff (f : CommandFields) : f.bufDefined = true ↔ f.buf ≠ 3 := by
  simp [CommandFields.bufDefined]

/-- All checks of R156 together, by what each asks of the fields. -/
theorem wellFormed_iff (f : CommandFields) :
    f.wellFormed = true ↔
      f.reserved = 0 ∧ f.reserved9 = false ∧ f.opcode.toNat ≤ 9 ∧ (f.enc = true → f.opcode.toNat ∈ [4, 5, 8]) ∧
        (f.buf ≠ 0 → f.opcode.toNat ∈ [1, 2]) ∧ f.buf ≠ 3 := by
  simp only [CommandFields.wellFormed, Bool.and_eq_true, reservedClear_iff, opcodeDefined_iff, encAllowed_iff,
    bufAllowed_iff, bufDefined_iff, and_assoc]

/-- CRC and XOR have a row for each buffer, and none for BUF = 11 (R154). -/
theorem exists_fields_of_bufOpcode {n : Nat} {buf : BitVec 2} (hn : n ∈ [1, 2]) (hbuf : buf ≠ 3) :
    ∃ i : Instr, i.fields = commandFields (BitVec.ofNat 8 n) false buf := by
  have buffers : buf = 0 ∨ buf = 1 ∨ buf = 2 := by
    revert buf
    decide
  simp only [List.mem_cons, List.not_mem_nil, or_false] at hn
  rcases hn with rfl | rfl
  · rcases buffers with rfl | rfl | rfl
    exacts [⟨.crcRx, rfl⟩, ⟨.crcTx, rfl⟩, ⟨.crcPb, rfl⟩]
  · rcases buffers with rfl | rfl | rfl
    exacts [⟨.xorRx, rfl⟩, ⟨.xorTx, rfl⟩, ⟨.xorPb, rfl⟩]

/-- FRAME, SERIALIZE and RX have a row for each value of ENC (R153). -/
theorem exists_fields_of_encOpcode {n : Nat} (hn : n ∈ [4, 5, 8]) (enc : Bool) :
    ∃ i : Instr, i.fields = commandFields (BitVec.ofNat 8 n) enc 0 := by
  simp only [List.mem_cons, List.not_mem_nil, or_false] at hn
  rcases hn with rfl | rfl | rfl
  · exact ⟨if enc then .frameEnc else .frame, by cases enc <;> rfl⟩
  · exact ⟨if enc then .serializeEnc else .serialize, by cases enc <;> rfl⟩
  · exact ⟨if enc then .rxDec else .rx, by cases enc <;> rfl⟩

/-- Every defined opcode has a row with ENC = 0 and BUF = 00 (R152). -/
theorem exists_fields_of_opcode {n : Nat} (hn : n ≤ 9) :
    ∃ i : Instr, i.fields = commandFields (BitVec.ofNat 8 n) false 0 := by
  interval_cases n
  exacts [⟨.nop, rfl⟩, ⟨.crcRx, rfl⟩, ⟨.xorRx, rfl⟩, ⟨.plan, rfl⟩, ⟨.frame, rfl⟩, ⟨.serialize, rfl⟩,
    ⟨.deserialize, rfl⟩, ⟨.verify, rfl⟩, ⟨.rx, rfl⟩, ⟨.release, rfl⟩]

/-- Fields that pass the checks of R156 are a row of the table of R159. -/
theorem exists_fields_eq_of_wellFormed {f : CommandFields} (h : f.wellFormed = true) : ∃ i : Instr, i.fields = f := by
  obtain ⟨hreserved, hreserved9, hopcode, henc, hbuf, hbuf3⟩ := (wellFormed_iff f).1 h
  have legal : f = commandFields (BitVec.ofNat 8 f.opcode.toNat) f.enc f.buf := by
    rw [BitVec.ofNat_toNat, BitVec.setWidth_eq, commandFields, ← hreserved, ← hreserved9]
  rw [legal]
  by_cases hselect : f.buf = 0
  · rw [hselect]
    cases e : f.enc
    · exact exists_fields_of_opcode hopcode
    · exact exists_fields_of_encOpcode (henc e) true
  · have plain : f.enc = false := by
      have hop := hbuf hselect
      cases e : f.enc
      · rfl
      · have hop' := henc e
        simp only [List.mem_cons, List.not_mem_nil, or_false] at hop hop'
        omega
    rw [plain]
    exact exists_fields_of_bufOpcode (hbuf hselect) hbuf3

/-! ### The decoder (R156) -/

/-- The row of a command's fields is the command (R152 to R154). -/
@[simp] theorem rowOf_fields (i : Instr) : rowOf i.fields = .ok i := by
  cases i <;> rfl

/-- A word that passes all checks runs the row of its fields (R156). -/
theorem decode_of_wellFormed {w : Word} (h : (fieldsOf w).wellFormed = true) : decode w = rowOf (fieldsOf w) := by
  simp only [CommandFields.wellFormed, Bool.and_eq_true] at h
  obtain ⟨⟨⟨⟨hreserved, hopcode⟩, henc⟩, hbuf⟩, hbuf3⟩ := h
  simp [decode, hreserved, hopcode, henc, hbuf, hbuf3]

/-- A word that fails a check is refused (R156). -/
theorem decode_of_not_wellFormed {w : Word} (h : (fieldsOf w).wellFormed = false) : ∃ e, decode w = .error e := by
  unfold decode
  dsimp only
  split_ifs with hreserved hopcode henc hbuf hbuf3
  iterate 5 exact ⟨_, rfl⟩
  · simp only [Bool.not_eq_true', Bool.not_eq_false] at hreserved hopcode henc hbuf hbuf3
    simp [CommandFields.wellFormed, hreserved, hopcode, henc, hbuf, hbuf3] at h

/-- A word decodes to the command whose fields it has. -/
theorem decode_eq_ok_iff (w : Word) (i : Instr) : decode w = .ok i ↔ fieldsOf w = i.fields := by
  constructor
  · intro h
    cases hw : (fieldsOf w).wellFormed
    · obtain ⟨e, he⟩ := decode_of_not_wellFormed hw
      rw [he] at h
      cases h
    · obtain ⟨j, hj⟩ := exists_fields_eq_of_wellFormed hw
      rw [decode_of_wellFormed hw, ← hj, rowOf_fields] at h
      cases h
      exact hj.symm
  · intro h
    have hw : (fieldsOf w).wellFormed = true := by rw [h, wellFormed_fields]
    rw [decode_of_wellFormed hw, h, rowOf_fields]

/-- A word is refused exactly when it fails a check. -/
theorem decode_error_iff (w : Word) : (∃ e, decode w = .error e) ↔ (fieldsOf w).wellFormed = false := by
  refine ⟨fun ⟨e, he⟩ => ?_, decode_of_not_wellFormed⟩
  cases hw : (fieldsOf w).wellFormed
  · rfl
  · obtain ⟨i, hi⟩ := exists_fields_eq_of_wellFormed hw
    rw [(decode_eq_ok_iff w i).2 hi.symm] at he
    cases he

/-- Settles O2: a word is packed from its fields, and it decodes to the command that has these fields. -/
theorem decodeAcceptsExactlyTheEncodings : Obligations.DecodeAcceptsExactlyTheEncodings := by
  unfold Obligations.DecodeAcceptsExactlyTheEncodings
  intro w i
  rw [decode_eq_ok_iff]
  constructor
  · intro h
    rw [encode, ← h, packFields_fieldsOf]
  · rintro rfl
    exact fieldsOf_encode i

/-- Settles O3: the bits named are those of the fields, and each disjunct is the failure of one check. -/
theorem illegalWordsAreExactlyThoseOfTheChecks : Obligations.IllegalWordsAreExactlyThoseOfTheChecks := by
  unfold Obligations.IllegalWordsAreExactlyThoseOfTheChecks
  intro w
  rw [decode_error_iff, ← Bool.not_eq_true, wellFormed_iff]
  simp only [fieldsOf, not_and_or, not_le, Classical.not_imp, not_not, Bool.not_eq_false, ne_eq]

/-- Settles O1: each word is its command's, so it decodes to that command. -/
theorem sampleWordsDecode : Obligations.SampleWordsDecode := by
  have decodes (w : Word) (i : Instr) (h : encode i = w) : decode w = .ok i :=
    (decodeAcceptsExactlyTheEncodings w i).2 h
  exact ⟨decodes _ .nop rfl, decodes _ .crcTx rfl, decodes _ .xorPb rfl, decodes _ .frameEnc rfl,
    decodes _ .rxDec rfl, decodes _ .release rfl⟩

end Sys2Proof
end

section
/-! SUPPORT and proofs. The checksum (spec/40_checksum.md): a step of the register loses no information, so strings that
differ in one byte differ in checksum (R200, R201); the CRC commands (R202); a framed segment's checksum found again in
TXBUF (R203). -/

namespace Sys2Proof.Machine

/-! ### The checksum register (R200) -/

/-- The top bit after a bit step is the bit shifted out: `crcPoly` has its top bit set. -/
theorem getLsbD_crcBit_top (r : Word) : (crcBit r).getLsbD 31 = r.getLsbD 0 := by
  have poly_top : crcPoly.getLsbD 31 = true := by decide
  have shifted_top : (r >>> 1).getLsbD 31 = false := by simp
  unfold crcBit
  split
  · next hlow => rw [BitVec.getLsbD_xor, shifted_top, poly_top, hlow]; rfl
  · next hlow => rw [shifted_top, Bool.eq_false_iff.2 hlow]

/-- A word is its low bit and the bits above it. -/
theorem eq_of_low_bit_of_shift {r r' : Word} (hlow : r.getLsbD 0 = r'.getLsbD 0) (hshift : r >>> 1 = r' >>> 1) :
    r = r' := by
  refine BitVec.eq_of_getLsbD_eq fun i _ => ?_
  cases i with
  | zero => exact hlow
  | succ i =>
    have := congrArg (·.getLsbD i) hshift
    simpa [BitVec.getLsbD_ushiftRight, Nat.add_comm 1 i] using this

/-- The top bit tells which branch the step took, and either branch can be undone. -/
theorem crcBit_injective : Function.Injective crcBit := by
  intro r r' h
  have hlow : r.getLsbD 0 = r'.getLsbD 0 := by rw [← getLsbD_crcBit_top, h, getLsbD_crcBit_top]
  refine eq_of_low_bit_of_shift hlow ?_
  unfold crcBit at h
  rw [← hlow] at h
  split at h
  · exact BitVec.xor_left_inj crcPoly |>.1 h
  · exact h

theorem crcBits_injective (n : Nat) : Function.Injective (crcBits n) := by
  induction n with
  | zero => exact Function.injective_id
  | succ n ih => exact ih.comp crcBit_injective

theorem crcByte_register_injective (b : Byte) : Function.Injective (crcByte · b) := fun _ _ h =>
  (BitVec.xor_left_inj (b.setWidth 32)).1 (crcBits_injective 8 h)

theorem crcByte_byte_injective (r : Word) : Function.Injective (crcByte r) := fun b c h => by
  have hwide : b.setWidth 32 = c.setWidth 32 := (BitVec.xor_right_inj r).1 (crcBits_injective 8 h)
  simpa using congrArg (BitVec.setWidth 8) hwide

theorem crcRegister_injective (bs : List Byte) : Function.Injective (crcRegister · bs) := by
  induction bs with
  | nil => exact Function.injective_id
  | cons b bs ih => exact ih.comp (crcByte_register_injective b)

/-- Bytes are consumed in string order (R200). -/
theorem crcRegister_append (r : Word) (xs ys : List Byte) :
    crcRegister r (xs ++ ys) = crcRegister (crcRegister r xs) ys := by
  induction xs generalizing r with
  | nil => rfl
  | cons x xs ih => exact ih (crcByte r x)

/-- Settles O14: the register differs after the differing byte, and no later byte makes two registers equal. -/
theorem crcDetectsEverySingleByteChange : Obligations.CrcDetectsEverySingleByteChange := by
  unfold Obligations.CrcDetectsEverySingleByteChange
  intro xs ys b c hbc h
  have hreg : crcRegister crcInit (xs ++ b :: ys) = crcRegister crcInit (xs ++ c :: ys) := BitVec.not_inj.1 h
  simp only [crcRegister_append] at hreg
  exact hbc (crcByte_byte_injective _ (crcRegister_injective ys hreg))

/-- Settles O13: the register is run on the three strings. -/
theorem crcCheckValues : Obligations.CrcCheckValues :=
  ⟨rfl, by decide +kernel, by decide +kernel⟩

/-! ### The CRC commands (R202) -/

/-- `finish` leaves what `State.completed` writes out (R402). -/
theorem finish_eq_completed (code : ErrCode) (s : State) : finish code s = s.completed code := rfl

/-- A region within B_MAX: RESULT gets its checksum (R202). -/
theorem crcCommand_of_fits {s : State} (r : Ram) (h : s.argOff.toNat + s.argLen.toNat ≤ s.bMax) :
    crcCommand r s = { s.completed .ok with result := crc32 (s.region r) } := by
  rcases crcCommand_cases r s with ⟨hout, -⟩ | ⟨-, e⟩
  · exact absurd (s.regionOutOfRange_iff.1 hout) (Nat.not_lt.2 h)
  · rw [e]
    rfl

/-- A region past B_MAX: RANGE (R202). -/
theorem crcCommand_of_past {s : State} (r : Ram) (h : s.bMax < s.argOff.toNat + s.argLen.toNat) :
    crcCommand r s = s.completed .range := by
  rcases crcCommand_cases r s with ⟨-, e⟩ | ⟨hin, -⟩
  · rw [e, finish_eq_completed]
  · exact absurd (s.regionOutOfRange_iff.2 h) hin

/-- Settles O15: the three words run one command, each on its buffer. -/
theorem crcCommandsComputeTheRegionChecksum : Obligations.CrcCommandsComputeTheRegionChecksum := by
  unfold Obligations.CrcCommandsComputeTheRegionChecksum
  intro s w i r hrow
  have row : encode i = w ∧ commandResult s i = crcCommand r s := by
    simp only [List.mem_cons, List.not_mem_nil, or_false, Prod.mk.injEq] at hrow
    rcases hrow with ⟨rfl, rfl, rfl⟩ | ⟨rfl, rfl, rfl⟩ | ⟨rfl, rfl, rfl⟩ <;> exact ⟨rfl, rfl⟩
  obtain ⟨hword, hresult⟩ := row
  rw [exec_eq_commandResult, hresult]
  exact ⟨(decodeAcceptsExactlyTheEncodings w i).2 hword, fun h => congrArg _ (crcCommand_of_fits r h),
    fun h => congrArg _ (crcCommand_of_past r h)⟩

/-! ### A framed segment in TXBUF (R203) -/

/-- The end of a region is the region that starts there. -/
theorem Memory.drop_readBytes (m : Memory) (a n k : Nat) :
    (m.readBytes a n).drop k = m.readBytes (a + k) (n - k) := by
  induction k generalizing a n with
  | zero => rfl
  | succ k ih =>
    cases n with
    | zero => rw [Nat.zero_sub]; rfl
    | succ n =>
      rw [Nat.add_sub_add_right, ← Nat.add_assoc, Nat.add_right_comm]
      exact ih (a + 1) n

theorem State.drop_ramBytes (s : State) (r : Ram) (o n k : Nat) :
    (s.ramBytes r o n).drop k = s.ramBytes r (o + k) (n - k) :=
  (s.mem.drop_readBytes (r.base + o) n k).trans (by rw [Nat.add_assoc]; rfl)

/-- TXBUF holds the datagram put into it (R248, R286). -/
theorem ramBytes_emitDatagram (d : List Byte) (s : State) : (emitDatagram d s).ramBytes .txbuf 0 d.length = d :=
  Memory.readBytes_writeBytes s.mem _ d

/-- A serialized segment from offset 4 on is what its checksum is computed on (R242, R243). -/
theorem drop_ser (g : Segment) : (ser g).drop 4 = be16 g.total ++ be16 g.index ++ g.block := rfl

theorem crc32_drop_ser_framedSegment (total index : Half) (block : List Byte) :
    crc32 ((ser (framedSegment total index block)).drop 4) = (framedSegment total index block).checksum := by
  rw [drop_ser]
  rfl

/-- FRAME when every check passes (R286). -/
theorem frameCommand_of_checks {enc : Bool} {s : State} (hB : s.budget.toNat ≤ s.bMax) (h8 : 8 < s.budget.toNat)
    (hs : s.blkLen.toNat ≤ s.maxPayload) (hk : enc = true → s.keyOk = true) :
    frameCommand enc s = frameDone enc s := by
  rcases frameCommand_cases enc s with ⟨h, -⟩ | ⟨-, h, -⟩ | ⟨-, -, h, -⟩ | ⟨-, -, -, ⟨henc, h⟩, -⟩ | ⟨-, -, -, -, e⟩
  · exact absurd (s.budgetOutOfRange_iff.1 h) (Nat.not_lt.2 hB)
  · exact absurd h8 (Nat.not_lt.2 h)
  · exact absurd h (Nat.not_lt.2 hs)
  · exact absurd (hk henc) h
  · exact e

/-- After FRAME without ENC, TXBUF[0:B] is the serialized segment (R286). -/
theorem ramBytes_frameDone {s : State} (h8 : 8 < s.budget.toNat) (hs : s.blkLen.toNat ≤ s.maxPayload) :
    (frameDone false s).ramBytes .txbuf 0 s.budget.toNat = ser s.frameSegment := by
  rw [← s.length_ser_frameSegment h8 hs]
  exact ramBytes_emitDatagram (ser s.frameSegment) s

/-- Settles O16: TXBUF[4:B] is the serialized segment without its checksum field. -/
theorem crcOfAFrameIsItsSegmentChecksum : Obligations.CrcOfAFrameIsItsSegmentChecksum := by
  unfold Obligations.CrcOfAFrameIsItsSegmentChecksum
  intro s t h8 hB hs hexec
  have done : commandResult s .frame = frameDone false s := frameCommand_of_checks hB h8 hs nofun
  rw [exec_eq_commandResult, done] at hexec
  obtain rfl := Host.Outcome.next.inj hexec
  have hlen : (s.budget - 4).toNat = s.budget.toNat - 4 :=
    BitVec.toNat_sub_of_le (BitVec.le_def.2 (Nat.le_trans (by decide) h8.le))
  have fits : (4#16).toNat + (s.budget - 4).toNat ≤ s.bMax := by
    rw [hlen, BitVec.toNat_ofNat]
    exact Nat.le_trans (by omega) hB
  have region : (frameDone false s).ramBytes .txbuf 4 (s.budget - 4).toNat = (ser s.frameSegment).drop 4 := by
    rw [hlen, ← ramBytes_frameDone h8 hs, State.drop_ramBytes]
  have checksum : crc32 ((frameDone false s).ramBytes .txbuf 4 (s.budget - 4).toNat) = s.frameSegment.checksum := by
    rw [region]
    exact crc32_drop_ser_framedSegment _ _ _
  rw [exec_eq_commandResult, commandResult, crcCommand_of_fits .txbuf]
  · exact ⟨_, rfl, checksum, rfl⟩
  · exact fits

end Sys2Proof.Machine
end

section
/-! SUPPORT and proofs. The stream cipher (spec/41_cipher.md): the keystream byte by byte and its laws (R220, R222), and
the XOR commands (R223), which undo themselves because the key lies outside every region they write. -/

namespace Sys2Proof.Machine

/-! ### The keystream (R220, R222) -/

/-- R220 for a keystream that starts at index `i`. -/
theorem byteAt_keystreamFrom (key bs : List Byte) (i j : Nat) (h : j < bs.length) :
    byteAt (keystreamFrom key i bs) j = byteAt bs j ^^^ byteAt key ((i + j) % key.length) := by
  induction bs generalizing i j with
  | nil => exact absurd h (Nat.not_lt_zero j)
  | cons b bs ih =>
    cases j with
    | zero => rfl
    | succ j =>
      have hindex : i + (j + 1) = i + 1 + j := by omega
      rw [hindex]
      exact ih (i + 1) j (Nat.lt_of_succ_lt_succ h)

theorem byteAt_keystream (key bs : List Byte) (i : Nat) (h : i < bs.length) :
    byteAt (keystream key bs) i = byteAt bs i ^^^ byteAt key (i % key.length) := by
  rw [keystream, byteAt_keystreamFrom key bs 0 i h, Nat.zero_add]

theorem keystreamFrom_keystreamFrom (key bs : List Byte) (i : Nat) :
    keystreamFrom key i (keystreamFrom key i bs) = bs := by
  induction bs generalizing i with
  | nil => rfl
  | cons b bs ih => simp [keystreamFrom, ih]

theorem keystream_keystream (key bs : List Byte) : keystream key (keystream key bs) = bs :=
  keystreamFrom_keystreamFrom key bs 0

theorem keystreamFrom_append (key xs ys : List Byte) (i : Nat) :
    keystreamFrom key i (xs ++ ys) = keystreamFrom key i xs ++ keystreamFrom key (i + xs.length) ys := by
  induction xs generalizing i with
  | nil => rfl
  | cons x xs ih => simp [keystreamFrom, ih, Nat.add_comm 1, Nat.add_assoc]

/-- Only the phase of the starting index matters (R222). -/
theorem keystreamFrom_congr_phase {key : List Byte} {i j : Nat} (h : i ≡ j [MOD key.length]) (bs : List Byte) :
    keystreamFrom key i bs = keystreamFrom key j bs := by
  induction bs generalizing i j with
  | nil => rfl
  | cons b bs ih => rw [keystreamFrom, keystreamFrom, ih (h.add_right 1), h]

theorem keystream_append (key xs ys : List Byte) :
    keystream key (xs ++ ys) = keystream key xs ++ keystreamFrom key (xs.length % key.length) ys := by
  rw [keystream, keystreamFrom_append, Nat.zero_add, keystream,
    keystreamFrom_congr_phase (Nat.mod_modEq xs.length key.length)]

/-- A change `m` of one input byte changes the output byte at its place by `m` (R222). -/
theorem keystreamFrom_flip (key xs ys : List Byte) (b m : Byte) (i : Nat) :
    keystreamFrom key i (xs ++ (b ^^^ m) :: ys) =
      (keystreamFrom key i (xs ++ b :: ys)).modify xs.length (· ^^^ m) := by
  induction xs generalizing i with
  | nil => simp only [List.nil_append, List.length_nil, keystreamFrom, List.modify_zero_cons, BitVec.xor_assoc,
      BitVec.xor_comm m]
  | cons x xs ih =>
    simp only [List.cons_append, List.length_cons, keystreamFrom, List.modify_succ_cons, ih]

/-- Settles O17, by induction on the string for every starting index. -/
theorem keystreamIsTheRepeatedKey : Obligations.KeystreamIsTheRepeatedKey := by
  unfold Obligations.KeystreamIsTheRepeatedKey
  exact fun key bs => ⟨length_keystream key bs, byteAt_keystream key bs⟩

/-- Settles O18: each law holds from every starting index, of which only the phase matters. -/
theorem keystreamLaws : Obligations.KeystreamLaws := by
  unfold Obligations.KeystreamLaws
  exact fun key xs ys => ⟨keystream_keystream key xs, keystream_append key xs ys,
    fun b m => keystreamFrom_flip key xs ys b m 0⟩

/-! ### The XOR commands (R223) -/

/-- The region of `r` replaced by its keystream transform: what XOR writes (R223). -/
def State.ciphered (s : State) (r : Ram) : State :=
  s.writeRam r s.argOff.toNat (keystream s.keyBytes (s.region r))

/-- A region past B_MAX: RANGE (R223). -/
theorem xorCommand_of_past {s : State} (r : Ram) (h : s.bMax < s.argOff.toNat + s.argLen.toNat) :
    xorCommand r s = s.completed .range := by
  rcases xorCommand_cases r s with ⟨-, e⟩ | ⟨hin, -⟩ | ⟨hin, -⟩
  · rw [e, finish_eq_completed]
  · exact absurd (s.regionOutOfRange_iff.2 h) hin
  · exact absurd (s.regionOutOfRange_iff.2 h) hin

/-- A region within B_MAX under a key of a length that key_ok() refuses: KEY_INVALID (R221, R223). -/
theorem xorCommand_of_bad_key {s : State} (r : Ram) (h : s.argOff.toNat + s.argLen.toNat ≤ s.bMax)
    (hk : s.keyLen.toNat = 0 ∨ 32 < s.keyLen.toNat) : xorCommand r s = s.completed .keyInvalid := by
  rcases xorCommand_cases r s with ⟨hout, -⟩ | ⟨-, -, e⟩ | ⟨-, hok, -⟩
  · exact absurd (s.regionOutOfRange_iff.1 hout) (Nat.not_lt.2 h)
  · rw [e, finish_eq_completed]
  · obtain ⟨hpos, hmax⟩ := s.keyOk_iff.1 hok
    simp only [Config.keyMax] at hmax
    omega

/-- Every check passed: the region through the keystream, in place (R223). -/
theorem xorCommand_of_checks {s : State} (r : Ram) (h : s.argOff.toNat + s.argLen.toNat ≤ s.bMax)
    (hpos : 1 ≤ s.keyLen.toNat) (hmax : s.keyLen.toNat ≤ 32) :
    xorCommand r s = finish .ok (s.ciphered r) := by
  rcases xorCommand_cases r s with ⟨hout, -⟩ | ⟨-, hbad, -⟩ | ⟨-, -, e⟩
  · exact absurd (s.regionOutOfRange_iff.1 hout) (Nat.not_lt.2 h)
  · exact absurd (s.keyOk_iff.2 ⟨hpos, hmax⟩) hbad
  · exact e

@[simp] theorem State.length_region (s : State) (r : Ram) : (s.region r).length = s.argLen.toNat :=
  s.length_ramBytes r _ _

theorem State.byteAt_ramBytes (s : State) (r : Ram) (o : Nat) {n i : Nat} (h : i < n) :
    byteAt (s.ramBytes r o n) i = s.ram r (o + i) := by
  rw [State.ramBytes, Memory.byteAt_readBytes _ _ _ _ h, Nat.add_assoc]
  rfl

/-- Byte j of the region through the keystream meets KEY byte j mod KEY_LEN (R220, R223). -/
theorem State.byteAt_keystream_region (s : State) (r : Ram) {j : Nat} (hj : j < s.argLen.toNat)
    (hpos : 1 ≤ s.keyLen.toNat) :
    byteAt (keystream s.keyBytes (s.region r)) j =
      s.ram r (s.argOff.toNat + j) ^^^ s.ram .key (j % s.keyLen.toNat) := by
  have hkey : s.keyBytes.length = s.keyLen.toNat := s.length_ramBytes .key 0 _
  rw [byteAt_keystream _ _ _ (by rwa [s.length_region]), hkey, State.region, s.byteAt_ramBytes r _ hj, State.keyBytes,
    s.byteAt_ramBytes .key 0 (Nat.mod_lt j hpos), Nat.zero_add]

/-- Settles O19: the three words run one command, each on its buffer. -/
theorem xorCommandsApplyTheKeystreamInPlace : Obligations.XorCommandsApplyTheKeystreamInPlace := by
  unfold Obligations.XorCommandsApplyTheKeystreamInPlace
  intro s w i r hrow
  have row : encode i = w ∧ commandResult s i = xorCommand r s := by
    simp only [List.mem_cons, List.not_mem_nil, or_false, Prod.mk.injEq] at hrow
    rcases hrow with ⟨rfl, rfl, rfl⟩ | ⟨rfl, rfl, rfl⟩ | ⟨rfl, rfl, rfl⟩ <;> exact ⟨rfl, rfl⟩
  obtain ⟨hword, hresult⟩ := row
  rw [exec_eq_commandResult, hresult]
  refine ⟨(decodeAcceptsExactlyTheEncodings w i).2 hword, fun h => congrArg _ (xorCommand_of_past r h),
    fun h hk => congrArg _ (xorCommand_of_bad_key r h hk), fun h hpos hmax => ?_⟩
  rw [xorCommand_of_checks r h hpos hmax]
  refine ⟨_, rfl, fun j hj => ?_, fun a ha => ?_, rfl⟩
  · have written := s.ram_writeRam_same r s.argOff.toNat (keystream s.keyBytes (s.region r)) (s.argOff.toNat + j)
    rw [length_keystream, s.length_region, if_pos (by omega), Nat.add_sub_cancel_left,
      s.byteAt_keystream_region r hj hpos] at written
    exact written
  · rw [finish_mem, State.ciphered, State.writeRam_mem, Memory.read_writeBytes, length_keystream, s.length_region,
      if_neg ha]

/-! ### XOR twice (R222) -/

/-- Bytes written over a region and then the region's old bytes written back leave a canonical memory as it was. -/
theorem Memory.writeBytes_restore {m : Memory} (hm : m.wf = true) (a : Nat) (bs : List Byte) :
    (m.writeBytes a bs).writeBytes a (m.readBytes a bs.length) = m := by
  refine Memory.ext_of_wf (Memory.wf_writeBytes _ _ _ (Memory.wf_writeBytes _ _ _ hm)) hm fun x => ?_
  rw [Memory.read_writeBytes, Memory.read_writeBytes, Memory.length_readBytes]
  split
  · next hx => rw [Memory.byteAt_readBytes _ _ _ _ (by omega), Nat.add_sub_cancel' hx.1]
  · rfl

/-- No write into a buffer reaches the key: KEY lies below every buffer (R106). -/
theorem State.keyBytes_writeRam (s : State) {r : Ram} (hr : r ≠ .key) (o : Nat) (bs : List Byte) :
    (s.writeRam r o bs).keyBytes = s.keyBytes := by
  have hbase : Ram.base .key + 256 ≤ r.base := by cases r <;> simp [Ram.base] at hr ⊢
  have hlen := s.keyLen.isLt
  refine Memory.readBytes_congr _ _ _ _ _ fun i hi => ?_
  rw [State.writeRam_keyLen] at hi
  rw [State.writeRam_mem, Memory.read_writeBytes, if_neg (by omega)]

/-- The region after a write of its whole length. -/
theorem State.region_writeRam (s : State) (r : Ram) {bs : List Byte} (h : bs.length = s.argLen.toNat) :
    (s.writeRam r s.argOff.toNat bs).region r = bs := by
  rw [State.region, State.writeRam_argLen, ← h]
  exact Memory.readBytes_writeBytes s.mem _ bs

theorem State.keyBytes_ciphered (s : State) {r : Ram} (hr : r ≠ .key) : (s.ciphered r).keyBytes = s.keyBytes :=
  s.keyBytes_writeRam hr _ _

theorem State.region_ciphered (s : State) (r : Ram) :
    (s.ciphered r).region r = keystream s.keyBytes (s.region r) :=
  s.region_writeRam r (by rw [length_keystream, s.length_region])

/-- The second transform finds the same key and the first one's output, so it writes the first contents back. -/
theorem State.ciphered_ciphered_mem {s : State} {r : Ram} (hr : r ≠ .key) (hwf : s.mem.wf = true) :
    ((s.ciphered r).ciphered r).mem = s.mem := by
  have again : keystream (s.ciphered r).keyBytes ((s.ciphered r).region r) = s.region r := by
    rw [s.keyBytes_ciphered hr, s.region_ciphered, keystream_keystream]
  have restored := Memory.writeBytes_restore hwf (r.base + s.argOff.toNat) (keystream s.keyBytes (s.region r))
  rw [length_keystream, s.length_region] at restored
  rw [State.ciphered, again]
  exact restored

/-- XOR twice: a refused command is refused again and writes nothing; one that runs transforms its own output. -/
theorem xorCommand_xorCommand_mem {s : State} {r : Ram} (hr : r ≠ .key) (hwf : s.mem.wf = true) :
    (xorCommand r (xorCommand r s)).mem = s.mem := by
  by_cases hin : s.argOff.toNat + s.argLen.toNat ≤ s.bMax
  · by_cases hk : s.keyLen.toNat = 0 ∨ 32 < s.keyLen.toNat
    · rw [xorCommand_of_bad_key r hin hk, xorCommand_of_bad_key (s := s.completed .keyInvalid) r hin hk]
      rfl
    · obtain ⟨hpos, hmax⟩ : 1 ≤ s.keyLen.toNat ∧ s.keyLen.toNat ≤ 32 := by omega
      rw [xorCommand_of_checks r hin hpos hmax,
        xorCommand_of_checks (s := finish .ok (s.ciphered r)) r hin hpos hmax]
      exact State.ciphered_ciphered_mem hr hwf
  · have hpast := Nat.lt_of_not_le hin
    rw [xorCommand_of_past r hpast, xorCommand_of_past (s := s.completed .range) r hpast]
    rfl

/-- Settles O20: `exec` is `xorCommand` on one of the three buffers, none of which holds the key. -/
theorem xorTwiceRestoresMemory : Obligations.XorTwiceRestoresMemory := by
  unfold Obligations.XorTwiceRestoresMemory
  intro s t u i hi hwf hst htu
  obtain ⟨r, hr, hxor⟩ : ∃ r : Ram, r ≠ .key ∧ ∀ v, commandResult v i = xorCommand r v := by
    simp only [List.mem_cons, List.not_mem_nil, or_false] at hi
    rcases hi with rfl | rfl | rfl <;> exact ⟨_, by decide, fun _ => rfl⟩
  rw [exec_eq_commandResult, hxor] at hst htu
  obtain rfl := Host.Outcome.next.inj hst
  obtain rfl := Host.Outcome.next.inj htu
  exact xorCommand_xorCommand_mem hr hwf

end Sys2Proof.Machine
end

section
/-! SUPPORT and proofs. Framing (spec/42_framing.md): a datagram and the segment in it determine each other (R253), so
verifying a datagram compares its first four bytes with the checksum of the rest (R254); SERIALIZE, DESERIALIZE and
VERIFY (R248 to R250); the progress registers (R252); FRAME.enc received by RX.dec (R287, R325). -/

namespace Sys2Proof.Machine

/-! ### Fields read and written (R14) -/

theorem rdBe16_be16_append (v : Half) (bs : List Byte) : rdBe16 (be16 v ++ bs) 0 = v := by
  simp only [rdBe16, be16, byteAt, List.cons_append, List.getD_cons_zero, List.getD_cons_succ, Nat.zero_add]
  ext i hi
  simp only [BitVec.getElem_append, BitVec.getElem_extractLsb']
  grind

theorem rdBe32_be32_append (v : Word) (bs : List Byte) : rdBe32 (be32 v ++ bs) 0 = v := by
  simp only [rdBe32, be32, byteAt, List.cons_append, List.getD_cons_zero, List.getD_cons_succ, Nat.zero_add]
  ext i hi
  simp only [BitVec.getElem_append, BitVec.getElem_extractLsb']
  grind

theorem be32_injective : Function.Injective be32 := fun c d h => by
  rw [← rdBe32_be32_append c [], h, rdBe32_be32_append]

theorem be16_append (hi lo : Byte) : be16 (hi ++ lo) = [hi, lo] := by
  simp only [be16, List.cons.injEq, and_true]
  constructor <;> ext i h <;> simp only [BitVec.getElem_extractLsb', BitVec.getLsbD_append] <;> grind

theorem be32_append (a b c d : Byte) : be32 (a ++ b ++ c ++ d) = [a, b, c, d] := by
  simp only [be32, List.cons.injEq, and_true]
  refine ⟨?_, ?_, ?_, ?_⟩ <;> ext i h <;> simp only [BitVec.getElem_extractLsb', BitVec.getLsbD_append] <;> grind

/-! ### Datagrams and segments (R243, R244) -/

/-- R253 for the parser: each field is read where it was written. -/
theorem parseSegment_ser (g : Segment) : parseSegment (ser g) = g := by
  have checksum : rdBe32 (ser g) 0 = g.checksum := by
    simp only [ser, List.append_assoc, rdBe32_be32_append]
  have total : rdBe16 (ser g) 4 = g.total := rdBe16_be16_append g.total (be16 g.index ++ g.block)
  have index : rdBe16 (ser g) 6 = g.index := rdBe16_be16_append g.index g.block
  have block : (ser g).drop Config.headerSize = g.block := rfl
  rw [parseSegment, checksum, total, index, block]

/-- The other way round: no byte of a datagram is lost in its segment. -/
theorem ser_parseSegment {p : List Byte} (h : 8 ≤ p.length) : ser (parseSegment p) = p := by
  match p, h with
  | a :: b :: c :: d :: e :: f :: x :: y :: bs, _ =>
    have header : ser (parseSegment (a :: b :: c :: d :: e :: f :: x :: y :: bs)) =
        be32 (a ++ b ++ c ++ d) ++ be16 (e ++ f) ++ be16 (x ++ y) ++ bs := rfl
    rw [header, be32_append, be16_append, be16_append]
    rfl

theorem deser_of_length {p : List Byte} (h : 8 ≤ p.length) : deser p = some (parseSegment p) := by
  rcases deser_cases p with ⟨hshort, -⟩ | ⟨-, e⟩
  · exact absurd h (Nat.not_le.2 hshort)
  · exact e

/-- Settles O22: the serialized form has a whole header, and its fields parse back. -/
theorem deserializeInvertsSerialize : Obligations.DeserializeInvertsSerialize := by
  unfold Obligations.DeserializeInvertsSerialize
  intro g
  rw [deser_of_length (by rw [length_ser]; omega), parseSegment_ser]

/-! ### Integrity (R245, R254) -/

theorem verifySegment_framedSegment (total index : Half) (block : List Byte) :
    verifySegment (framedSegment total index block) = true :=
  beq_self_eq_true _

/-- A datagram verifies when its first four bytes are the checksum of all the others (R242, R245). -/
theorem verifySegment_parseSegment_iff {p : List Byte} (h : 8 ≤ p.length) :
    verifySegment (parseSegment p) = true ↔ be32 (crc32 (p.drop 4)) = p.take 4 := by
  have first : p.take 4 = be32 (parseSegment p).checksum := congrArg (List.take 4) (ser_parseSegment h).symm
  have rest : crc32 (p.drop 4) =
      segmentChecksum (parseSegment p).total (parseSegment p).index (parseSegment p).block :=
    congrArg (fun q => crc32 (q.drop 4)) (ser_parseSegment h).symm
  rw [first, rest, be32_injective.eq_iff, verifySegment, beq_iff_eq]

theorem byteAt_take (bs : List Byte) {k n : Nat} (h : n < k) : byteAt (bs.take k) n = byteAt bs n := by
  simp only [byteAt, List.getD_eq_getElem?_getD, List.getElem?_take, if_pos h]

theorem byteAt_drop (bs : List Byte) (k n : Nat) : byteAt (bs.drop k) n = byteAt bs (k + n) := by
  simp only [byteAt, List.getD_eq_getElem?_getD, List.getElem?_drop]

theorem byteAt_set_self {bs : List Byte} {n : Nat} (c : Byte) (h : n < bs.length) : byteAt (bs.set n c) n = c := by
  rw [byteAt_eq_getElem _ _ (by rwa [List.length_set]), List.getElem_set_self]

/-- R201 for a change in place. -/
theorem crc32_set_ne {bs : List Byte} {n : Nat} {c : Byte} (h : n < bs.length) (hc : c ≠ byteAt bs n) :
    crc32 (bs.set n c) ≠ crc32 bs := by
  have split_at : bs = bs.take n ++ byteAt bs n :: bs.drop (n + 1) := by
    rw [byteAt_eq_getElem _ _ h, List.getElem_cons_drop, List.take_append_drop]
  have split_set : bs.set n c = bs.take n ++ c :: bs.drop (n + 1) := List.set_eq_take_append_cons_drop.trans (if_pos h)
  have detects := crcDetectsEverySingleByteChange (bs.take n) (bs.drop (n + 1)) _ _ hc
  rwa [← split_at, ← split_set] at detects

/-- R254: the change is either in the first four bytes, which then differ from the checksum, or in the rest, whose
checksum then differs from them. -/
theorem verifySegment_set_eq_false {p : List Byte} {n : Nat} {c : Byte} (h8 : 8 ≤ p.length)
    (hv : verifySegment (parseSegment p) = true) (hn : n < p.length) (hc : c ≠ byteAt p n) :
    verifySegment (parseSegment (p.set n c)) = false := by
  rw [verifySegment_parseSegment_iff h8] at hv
  rw [← Bool.not_eq_true, verifySegment_parseSegment_iff (by rwa [List.length_set])]
  intro hv'
  by_cases hfirst : n < 4
  · rw [List.drop_set_of_lt hfirst, hv] at hv'
    have same_byte := congrArg (byteAt · n) hv'
    simp only [byteAt_take _ hfirst, byteAt_set_self c hn] at same_byte
    exact hc same_byte.symm
  · rw [List.take_set_of_le (Nat.le_of_not_lt hfirst), ← hv, List.drop_set, if_neg hfirst] at hv'
    refine crc32_set_ne (bs := p.drop 4) (n := n - 4) (c := c) ?_ ?_ (be32_injective hv')
    · rw [List.length_drop]
      omega
    · rwa [byteAt_drop, Nat.add_sub_cancel' (Nat.le_of_not_lt hfirst)]

/-- Settles O23: a framed segment meets the check of R245, and one changed byte of its serialized form spoils it. -/
theorem framedSegmentVerifiesUnlessAByteIsCorrupted : Obligations.FramedSegmentVerifiesUnlessAByteIsCorrupted := by
  unfold Obligations.FramedSegmentVerifiesUnlessAByteIsCorrupted
  intro total index block
  have hlen := length_ser (framedSegment total index block)
  have h8 : 8 ≤ (ser (framedSegment total index block)).length := by omega
  have verifies : verifySegment (parseSegment (ser (framedSegment total index block))) = true := by
    rw [parseSegment_ser, verifySegment_framedSegment]
  refine ⟨⟨_, deser_of_length h8, verifies⟩, fun n c hn hc => ⟨_, deser_of_length ?_, ?_⟩⟩
  · rwa [List.length_set]
  · exact verifySegment_set_eq_false h8 verifies (hlen ▸ hn) hc

/-! ### The progress registers (R247, R251, R252) -/

theorem toNat_progPct {total : Half} (index : Half) (h : total ≠ 0) :
    (progPct total index).toNat = index.toNat * 100 / total.toNat := by
  have hindex := index.isLt
  have fits : index.toNat * 100 / total.toNat < 2 ^ 32 := Nat.lt_of_le_of_lt (Nat.div_le_self _ _) (by omega)
  rw [progPct, if_neg h, BitVec.toNat_ofNat, Nat.mod_eq_of_lt fits]

/-- The flag packed last is bit 0. -/
theorem getLsbD_append_flag_zero {n : Nat} (hi : BitVec n) (b : Bool) : (hi ++ BitVec.ofBool b).getLsbD 0 = b := by
  rw [BitVec.getLsbD_append]
  simp

theorem getLsbD_append_flag_succ {n : Nat} (hi : BitVec n) (b : Bool) (i : Nat) :
    (hi ++ BitVec.ofBool b).getLsbD (i + 1) = hi.getLsbD i := by
  rw [BitVec.getLsbD_append]
  simp

/-- SEG_FLAGS.FINAL (R251). -/
theorem getLsbD_segFlags_final (s : State) : (s.readCsr .segFlags).getLsbD 0 = isFinal s.segTotal s.segIndex :=
  getLsbD_append_flag_zero _ _

/-- SEG_FLAGS.PROG_NAN (R252). -/
theorem getLsbD_segFlags_progNan (s : State) : (s.readCsr .segFlags).getLsbD 1 = (s.segTotal == 0) :=
  (getLsbD_append_flag_succ _ _ 0).trans (getLsbD_append_flag_zero _ _)

/-- Settles O27: `Nat` division is the floor of the exact quotient, and T = 0 has no quotient. -/
theorem progressIsTheFloorOfThePercentage : Obligations.ProgressIsTheFloorOfThePercentage := by
  unfold Obligations.ProgressIsTheFloorOfThePercentage
  intro s
  rw [getLsbD_segFlags_final, getLsbD_segFlags_progNan]
  refine ⟨?_, beq_iff_eq⟩
  by_cases h : s.segTotal = 0
  · simp only [progressPercent, if_pos h]
    exact ⟨if_pos h, beq_iff_eq.2 h⟩
  · simp only [progressPercent, if_neg h]
    refine ⟨?_, beq_eq_false_iff_ne.2 h⟩
    have exact_floor := Rat.floor_natCast_div_natCast (s.segIndex.toNat * 100) s.segTotal.toNat
    push_cast at exact_floor
    rw [exact_floor]
    exact congrArg Nat.cast (toNat_progPct s.segIndex h)

/-! ### SERIALIZE (R248) -/

/-- The lengths that key_ok() refuses (R221). -/
theorem State.not_keyOk_iff (s : State) : ¬ s.keyOk = true ↔ s.keyLen.toNat = 0 ∨ 32 < s.keyLen.toNat := by
  rw [s.keyOk_iff, Config.keyMax]
  omega

theorem serializeCommand_of_budget_past {enc : Bool} {s : State} (hB : s.bMax < s.budget.toNat) :
    serializeCommand enc s = s.completed .configRange := by
  rcases serializeCommand_cases enc s with ⟨-, e⟩ | ⟨h, -⟩ | ⟨h, -⟩ | ⟨h, -⟩
  · rw [e, finish_eq_completed]
  all_goals exact absurd (s.budgetOutOfRange_iff.2 hB) h

theorem serializeCommand_of_block_past {enc : Bool} {s : State} (hB : s.budget.toNat ≤ s.bMax)
    (hblk : s.budget.toNat < 8 + s.blkLen.toNat) : serializeCommand enc s = s.completed .bufferTooSmall := by
  rcases serializeCommand_cases enc s with ⟨h, -⟩ | ⟨-, -, e⟩ | ⟨-, h, -⟩ | ⟨-, h, -⟩
  · exact absurd (s.budgetOutOfRange_iff.1 h) (Nat.not_lt.2 hB)
  · rw [e, finish_eq_completed]
  all_goals exact absurd hblk (Nat.not_lt.2 h)

theorem serializeCommand_of_bad_key {s : State} (hB : s.budget.toNat ≤ s.bMax)
    (hblk : 8 + s.blkLen.toNat ≤ s.budget.toNat) (hk : ¬ s.keyOk = true) :
    serializeCommand true s = s.completed .keyInvalid := by
  rcases serializeCommand_cases true s with ⟨h, -⟩ | ⟨-, h, -⟩ | ⟨-, -, -, e⟩ | ⟨-, -, h, -⟩
  · exact absurd (s.budgetOutOfRange_iff.1 h) (Nat.not_lt.2 hB)
  · exact absurd h (Nat.not_lt.2 hblk)
  · rw [e, finish_eq_completed]
  · exact absurd ⟨rfl, hk⟩ h

theorem serializeCommand_of_checks {enc : Bool} {s : State} (hB : s.budget.toNat ≤ s.bMax)
    (hblk : 8 + s.blkLen.toNat ≤ s.budget.toNat) (hk : enc = true → s.keyOk = true) :
    serializeCommand enc s = finish .ok (emitDatagram (s.applyCipher enc s.serializeDatagram) s) := by
  rcases serializeCommand_cases enc s with ⟨h, -⟩ | ⟨-, h, -⟩ | ⟨-, -, ⟨henc, h⟩, -⟩ | ⟨-, -, -, e⟩
  · exact absurd (s.budgetOutOfRange_iff.1 h) (Nat.not_lt.2 hB)
  · exact absurd h (Nat.not_lt.2 hblk)
  · exact absurd (hk henc) h
  · exact e

/-- A datagram put into TXBUF leaves every byte outside it as it was. -/
theorem read_emitDatagram_of_outside {d : List Byte} {s : State} {a : Nat}
    (h : ¬ (Ram.base .txbuf ≤ a ∧ a < Ram.base .txbuf + d.length)) : (emitDatagram d s).mem.read a = s.mem.read a := by
  rw [emitDatagram_mem, Nat.add_zero, Memory.read_writeBytes, if_neg h]

/-- Settles O24: the two words run one command, which has four outcomes. -/
theorem serializeWritesTheGivenSegment : Obligations.SerializeWritesTheGivenSegment := by
  unfold Obligations.SerializeWritesTheGivenSegment
  intro s w i enc hrow
  have row : encode i = w ∧ commandResult s i = serializeCommand enc s := by
    simp only [List.mem_cons, List.not_mem_nil, or_false, Prod.mk.injEq] at hrow
    rcases hrow with ⟨rfl, rfl, rfl⟩ | ⟨rfl, rfl, rfl⟩ <;> exact ⟨rfl, rfl⟩
  obtain ⟨hword, hresult⟩ := row
  rw [exec_eq_commandResult, hresult]
  refine ⟨(decodeAcceptsExactlyTheEncodings w i).2 hword, fun hB => congrArg _ (serializeCommand_of_budget_past hB),
    fun hB hblk => congrArg _ (serializeCommand_of_block_past hB hblk), fun hB hblk henc hk => ?_,
    fun hB hblk hk => ?_⟩
  · rw [henc, serializeCommand_of_bad_key hB hblk (s.not_keyOk_iff.2 hk)]
  · have hlen : (s.applyCipher enc s.serializeDatagram).length = s.budget.toNat := by
      rw [State.length_applyCipher, s.length_serializeDatagram hblk]
    rw [serializeCommand_of_checks hB hblk fun henc => s.keyOk_iff.2 (hk henc)]
    refine ⟨_, rfl, ?_, fun a ha => read_emitDatagram_of_outside (hlen ▸ ha), rfl⟩
    have held := ramBytes_emitDatagram (s.applyCipher enc s.serializeDatagram) s
    rw [hlen] at held
    exact held

/-! ### DESERIALIZE and VERIFY (R249, R250) -/

theorem deserializeCommand_of_budget_past {s : State} (hB : s.bMax < s.budget.toNat) :
    deserializeCommand s = s.completed .configRange := by
  rcases deserializeCommand_cases s with ⟨-, e⟩ | ⟨h, -⟩ | ⟨h, -⟩
  · rw [e, finish_eq_completed]
  all_goals exact absurd (s.budgetOutOfRange_iff.2 hB) h

theorem deserializeCommand_of_short {s : State} (hB : s.budget.toNat ≤ s.bMax) (hlen : s.rxExtent < 8) :
    deserializeCommand s = s.completed .bufferTooSmall := by
  rcases deserializeCommand_cases s with ⟨h, -⟩ | ⟨-, -, e⟩ | ⟨-, h, -⟩
  · exact absurd (s.budgetOutOfRange_iff.1 h) (Nat.not_lt.2 hB)
  · rw [e, finish_eq_completed]
  · exact absurd hlen (Nat.not_lt.2 h)

theorem deserializeCommand_of_checks {s : State} (hB : s.budget.toNat ≤ s.bMax) (hlen : 8 ≤ s.rxExtent) :
    deserializeCommand s = finish .ok
      { recordSegment s.receivedSegment s with integrityOk := false, integrityValid := false } := by
  rcases deserializeCommand_cases s with ⟨h, -⟩ | ⟨-, h, -⟩ | ⟨-, -, e⟩
  · exact absurd (s.budgetOutOfRange_iff.1 h) (Nat.not_lt.2 hB)
  · exact absurd h (Nat.not_lt.2 hlen)
  · exact e

/-- A header field read from a region of RAM is read from the RAM (R14, R15). -/
theorem State.rdBe16_ramBytes (s : State) (r : Ram) {n o : Nat} (h : o + 1 < n) :
    rdBe16 (s.ramBytes r 0 n) o = s.ram r o ++ s.ram r (o + 1) := by
  simp only [rdBe16, s.byteAt_ramBytes r 0 h, s.byteAt_ramBytes r 0 (show o < n by omega), Nat.zero_add]

theorem State.rdBe32_ramBytes (s : State) (r : Ram) {n o : Nat} (h : o + 3 < n) :
    rdBe32 (s.ramBytes r 0 n) o = s.ram r o ++ s.ram r (o + 1) ++ s.ram r (o + 2) ++ s.ram r (o + 3) := by
  simp only [rdBe32, s.byteAt_ramBytes r 0 h, s.byteAt_ramBytes r 0 (show o < n by omega),
    s.byteAt_ramBytes r 0 (show o + 1 < n by omega), s.byteAt_ramBytes r 0 (show o + 2 < n by omega), Nat.zero_add]

/-- BLK_LEN holds the length of the received block without loss: L is at most B (R249, R324). -/
theorem State.toNat_blkLen_receivedSegment (s : State) :
    (BitVec.ofNat 16 s.receivedSegment.block.length).toNat = s.rxExtent - 8 := by
  have hB := s.budget.isLt
  have hL := s.rxExtent_le_budget
  have hblock : s.receivedSegment.block.length = s.rxExtent - 8 := by
    rw [State.receivedSegment, parseSegment, List.length_drop, s.length_ramBytes, Config.headerSize]
  rw [hblock, BitVec.toNat_ofNat, Nat.mod_eq_of_lt (by omega)]

/-- Settles O25: the fields of `parseSegment` are the header's bytes in RXBUF. -/
theorem deserializeParsesTheReceivedHeader : Obligations.DeserializeParsesTheReceivedHeader := by
  unfold Obligations.DeserializeParsesTheReceivedHeader
  intro s len hlen
  obtain rfl : len = s.rxExtent := hlen
  rw [exec_eq_commandResult, commandResult]
  refine ⟨rfl, fun hB => congrArg _ (deserializeCommand_of_budget_past hB),
    fun hB hshort => congrArg _ (deserializeCommand_of_short hB hshort), fun hB h8 => ?_⟩
  rw [deserializeCommand_of_checks hB h8]
  exact ⟨_, rfl, s.rdBe32_ramBytes .rxbuf (by omega), s.rdBe16_ramBytes .rxbuf (by omega),
    s.rdBe16_ramBytes .rxbuf (by omega), s.toNat_blkLen_receivedSegment, rfl, rfl, rfl⟩

theorem verifyCommand_of_past {s : State} (h : s.bMax < 8 + s.blkLen.toNat) : verifyCommand s = s.completed .range := by
  rcases verifyCommand_cases s with ⟨-, e⟩ | ⟨hfits, -⟩
  · rw [e, finish_eq_completed]
  · exact absurd h (Nat.not_lt.2 hfits)

theorem verifyCommand_of_fits {s : State} (h : 8 + s.blkLen.toNat ≤ s.bMax) :
    verifyCommand s = finish .ok (recordIntegrity (verifySegment s.verifiedSegment)
      { s with result :=
          segmentChecksum s.verifiedSegment.total s.verifiedSegment.index s.verifiedSegment.block }) := by
  rcases verifyCommand_cases s with ⟨hpast, -⟩ | ⟨-, e⟩
  · exact absurd hpast (Nat.not_lt.2 h)
  · exact e

/-- The advisory result and CMD_DONE; a mismatch sets INTEGRITY too and is no error (R250, R402). -/
theorem finish_recordIntegrity (ok : Bool) (s : State) :
    finish .ok (recordIntegrity ok s) =
      { s.completed .ok with
        integrityOk := ok
        integrityValid := true
        irqStatus := s.irqStatus ||| (if ok = true then 0x01 else 0x09) } := by
  cases ok with
  | true => rfl
  | false =>
    have both : s.irqStatus ||| irqIntegrity ||| finishIrq .ok = s.irqStatus ||| 0x09 := BitVec.or_assoc _ _ _
    exact congrArg
      (fun irq => { s.completed .ok with integrityOk := false, integrityValid := true, irqStatus := irq }) both

/-- Settles O26: `verifySegment` compares the checksum of the statement with SEG_CRC. -/
theorem verifyRecomputesTheChecksum : Obligations.VerifyRecomputesTheChecksum := by
  unfold Obligations.VerifyRecomputesTheChecksum
  intro s
  rw [exec_eq_commandResult, commandResult]
  refine ⟨rfl, fun h => congrArg _ (verifyCommand_of_past h), fun h c hc => ?_⟩
  subst hc
  rw [verifyCommand_of_fits h, finish_recordIntegrity]
  simp only [verifySegment, beq_iff_eq]
  rfl

/-! ### FRAME.enc received by RX.dec (R254, R287, R325) -/

/-- After FRAME, TXBUF[0:B] is the datagram of the framed segment, encrypted if ENC (R286). -/
theorem ramBytes_frameDone_applyCipher (enc : Bool) {s : State} (h8 : 8 < s.budget.toNat)
    (hs : s.blkLen.toNat ≤ s.maxPayload) :
    (frameDone enc s).ramBytes .txbuf 0 s.budget.toNat = s.applyCipher enc (ser s.frameSegment) := by
  have held := ramBytes_emitDatagram (s.applyCipher enc (ser s.frameSegment)) s
  rw [State.length_applyCipher, s.length_ser_frameSegment h8 hs] at held
  exact held

/-- The block that FRAME packs: PBUF[0:BLK_LEN], padded (R280, R286). -/
theorem State.frameSegment_block (s : State) :
    s.frameSegment.block =
      s.ramBytes .pbuf 0 s.blkLen.toNat ++ List.replicate (s.budget.toNat - 8 - s.blkLen.toNat) 0 := by
  rw [State.frameSegment, framedSegment, packBlock, s.length_ramBytes]
  rfl

/-- Under the key that encrypted it, a received datagram is the plaintext (R222, R325). -/
theorem datagram_of_encrypted {s u : State} {p : List Byte} (hkey : u.keyBytes = s.keyBytes)
    (hrx : u.ramBytes .rxbuf 0 u.rxExtent = s.applyCipher true p) : u.datagram true = p := by
  have cipher : u.datagram true = keystream u.keyBytes (keystream s.keyBytes p) := congrArg (keystream u.keyBytes) hrx
  rw [cipher, hkey, keystream_keystream]

theorem receiveSegment_of_held {g : Segment} {s : State} {j : Nat} (hl : lookup s.slots s.peerKey = some j) :
    receiveSegment g s = receiveInto j false g s := by
  rw [receiveSegment, hl]

/-- RX when every check passes and the peer holds a slot (R322, R326). -/
theorem rxCommand_of_held {enc : Bool} {s : State} {j : Nat} (hd : s.deliver = false) (hB : s.budget.toNat ≤ s.bMax)
    (hk : enc = true → s.keyOk = true) (hlen : 8 ≤ (s.datagram enc).length) (hl : lookup s.slots s.peerKey = some j) :
    rxCommand enc s = receiveInto j false (parseSegment (s.datagram enc)) { s with cntRx := s.cntRx + 1 } := by
  rcases rxCommand_cases enc s with
    ⟨h, -⟩ | ⟨-, h, -⟩ | ⟨-, -, ⟨henc, h⟩, -⟩ | ⟨-, -, -, h, -⟩ | ⟨-, -, -, -, e⟩
  · exact absurd (hd.symm.trans h) (by decide)
  · exact absurd (s.budgetOutOfRange_iff.1 h) (Nat.not_lt.2 hB)
  · exact absurd (hk henc) h
  · exact absurd hlen (Nat.not_le.2 h)
  · exact e.trans (receiveSegment_of_held hl)

/-- A block that fits is appended, whether or not it completes the transfer (R326, R329). -/
theorem receiveInto_of_fits {s : State} {j : Nat} {isNew : Bool} {g : Segment}
    (fits : s.build.slotBytes.admits (appendBase s j isNew + g.block.length) = true) :
    ∃ u, (u = appendSegment j isNew g s ∨ u = enterDelivery j (appendSegment j isNew g s)) ∧
      receiveInto j isNew g s = finish .ok u := by
  rcases receiveInto_cases j isNew g s with ⟨h, -⟩ | ⟨-, -, e⟩ | ⟨-, -, e⟩
  · exact absurd (h.symm.trans fits) (by decide)
  · exact ⟨_, .inr rfl, e⟩
  · exact ⟨_, .inl rfl, e⟩

/-- What RX leaves of an appended segment: the SEG registers, the integrity result, and slot j (R326 to R328). -/
theorem receiveInto_segment {s v : State} {j : Nat} {isNew : Bool} {g : Segment} (e : receiveInto j isNew g s = v)
    (hj : s.writableSlot j) (fits : s.build.slotBytes.admits (appendBase s j isNew + g.block.length) = true) :
    v.segCrc = g.checksum ∧ v.segTotal = g.total ∧ v.segIndex = g.index ∧ v.integrityOk = verifySegment g ∧
      v.errCode = .ok ∧ v.slot j = (s.slot j).append isNew s.peerKey g.block := by
  have slot := slot_appendSegment j isNew g hj
  obtain ⟨u, rfl | rfl, done⟩ := receiveInto_of_fits fits <;> rw [← e, done] <;> exact ⟨rfl, rfl, rfl, rfl, rfl, slot⟩

/-- The appended block stands in the STORE from the old LEN on (R326). -/
theorem readBytes_append_store (sl : Slot) (k : PeerKey) (block : List Byte) :
    (sl.append false k block).store.readBytes sl.len block.length = block :=
  Memory.readBytes_writeBytes sl.store sl.len block

/-- Settles O41: RX.dec parses the segment that FRAME.enc framed. -/
theorem encryptedFrameIsReceivedIntact : Obligations.EncryptedFrameIsReceivedIntact := by
  unfold Obligations.EncryptedFrameIsReceivedIntact
  intro s t u v j h8 hB hs hpos hmax hst hrx hkeyLen hkey hbudget hbuild hext hd hl fits huv
  have frameKey : s.keyOk = true := s.keyOk_iff.2 ⟨hpos, hmax⟩
  have rxKey : u.keyOk = true := u.keyOk_iff.2 (hkeyLen ▸ ⟨hpos, hmax⟩)
  have framed : commandResult s .frameEnc = frameDone true s := frameCommand_of_checks hB h8 hs fun _ => frameKey
  rw [exec_eq_commandResult, framed] at hst
  obtain rfl := Host.Outcome.next.inj hst
  have plaintext : u.datagram true = ser s.frameSegment := by
    refine datagram_of_encrypted (s := s) ?_ ?_
    · rw [State.keyBytes, hkeyLen, hkey, State.keyBytes]
    · rw [hext, hrx, ramBytes_frameDone_applyCipher true h8 hs]
  have hlen : 8 ≤ (u.datagram true).length := by
    rw [State.length_datagram, hext]
    exact h8.le
  have hB' : u.budget.toNat ≤ u.bMax := by rwa [hbudget, State.bMax, hbuild]
  have received := rxCommand_of_held hd hB' (fun _ => rxKey) hlen hl
  rw [plaintext, parseSegment_ser] at received
  rw [exec_eq_commandResult, commandResult, received] at huv
  have blockLength : s.frameSegment.block.length = s.budget.toNat - 8 :=
    length_packBlock _ _ (by rwa [State.length_ramBytes])
  obtain ⟨hlt, -, -⟩ := lookup_some hl
  obtain ⟨crc, total, index, ok, code, slot⟩ :=
    receiveInto_segment (Host.Outcome.next.inj huv) (.inl hlt) (by rw [blockLength]; exact fits)
  refine ⟨crc, total, index, ok.trans (verifySegment_framedSegment _ _ _), code, ?_⟩
  have stored := readBytes_append_store (u.slot j) u.peerKey s.frameSegment.block
  rw [blockLength, s.frameSegment_block] at stored
  rw [slot, s.frameSegment_block]
  exact stored

end Sys2Proof.Machine
end

section
/-! SUPPORT and proofs. The batcher (spec/43_batcher.md): the segment count and PLAN (R285), FRAME (R286), the split of
a payload and its laws (R280 to R283), and FRAME's part in it (R289). -/

namespace Sys2Proof.Machine

/-! ### The segment count (R282) -/

/-- The count is the least number of blocks that hold the payload. -/
theorem ceilDiv_le_iff {n m k : Nat} (hm : 0 < m) : ceilDiv n m ≤ k ↔ n ≤ k * m := by
  rw [Nat.mul_comm]
  exact ceilDiv_le_iff_le_mul hm

theorem le_ceilDiv_mul (n : Nat) {m : Nat} (hm : 0 < m) : n ≤ ceilDiv n m * m := (ceilDiv_le_iff hm).1 le_rfl

/-- The last block is not empty (R283). -/
theorem ceilDiv_mul_lt (n : Nat) {m : Nat} (hm : 0 < m) : ceilDiv n m * m < n + m := by
  have h : ceilDiv n m * m ≤ n + m - 1 := Nat.div_mul_le_self _ _
  omega

/-- A count within the capacity, and each segment's number, is held exactly in 16 bits (R282). -/
theorem toNat_ofNat_half {n : Nat} (h : n ≤ 65535) : (BitVec.ofNat 16 n).toNat = n :=
  (BitVec.toNat_ofNat n 16).trans (Nat.mod_eq_of_lt (Nat.lt_succ_of_le h))

/-! ### PLAN (R285) -/

theorem State.maxPayload_pos (s : State) (h8 : 8 < s.budget.toNat) : 0 < s.maxPayload := Nat.sub_pos_of_lt h8

/-- The capacity check of PLAN, without the division (R282). -/
theorem State.plannedCount_le_iff (s : State) (h8 : 8 < s.budget.toNat) (k : Nat) :
    s.plannedCount ≤ k ↔ s.payloadLen.toNat ≤ k * (s.budget.toNat - 8) :=
  ceilDiv_le_iff (s.maxPayload_pos h8)

theorem planCommand_of_budget_past {s : State} (hB : s.bMax < s.budget.toNat) :
    planCommand s = s.completed .configRange := by
  rcases planCommand_cases s with ⟨-, e⟩ | ⟨h, -⟩ | ⟨h, -⟩ | ⟨h, -⟩
  · rw [e, finish_eq_completed]
  all_goals exact absurd (s.budgetOutOfRange_iff.2 hB) h

theorem planCommand_of_no_payload {s : State} (hB : s.budget.toNat ≤ s.bMax) (h8 : s.budget.toNat ≤ 8) :
    planCommand s = s.completed .configTooSmall := by
  rcases planCommand_cases s with ⟨h, -⟩ | ⟨-, -, e⟩ | ⟨-, h, -⟩ | ⟨-, h, -⟩
  · exact absurd (s.budgetOutOfRange_iff.1 h) (Nat.not_lt.2 hB)
  · rw [e, finish_eq_completed]
  all_goals exact absurd h (Nat.not_lt.2 h8)

theorem planCommand_of_capacity_past {s : State} (hB : s.budget.toNat ≤ s.bMax) (h8 : 8 < s.budget.toNat)
    (hcap : 65535 < s.plannedCount) : planCommand s = s.completed .capacityExceeded := by
  rcases planCommand_cases s with ⟨h, -⟩ | ⟨-, h, -⟩ | ⟨-, -, -, e⟩ | ⟨-, -, h, -⟩
  · exact absurd (s.budgetOutOfRange_iff.1 h) (Nat.not_lt.2 hB)
  · exact absurd h8 (Nat.not_lt.2 h)
  · rw [e, finish_eq_completed]
  · exact absurd hcap (Nat.not_lt.2 h)

theorem planCommand_of_checks {s : State} (hB : s.budget.toNat ≤ s.bMax) (h8 : 8 < s.budget.toNat)
    (hcap : s.plannedCount ≤ 65535) :
    planCommand s = { s.completed .ok with
      result := BitVec.ofNat 32 s.plannedCount, segTotal := BitVec.ofNat 16 s.plannedCount } := by
  rcases planCommand_cases s with ⟨h, -⟩ | ⟨-, h, -⟩ | ⟨-, -, h, -⟩ | ⟨-, -, -, e⟩
  · exact absurd (s.budgetOutOfRange_iff.1 h) (Nat.not_lt.2 hB)
  · exact absurd h8 (Nat.not_lt.2 h)
  · exact absurd h (Nat.not_lt.2 hcap)
  · rw [e]
    rfl

/-- Settles O28: PLAN has four outcomes, and its count is the least that holds the payload. -/
theorem planCountsTheSegments : Obligations.PlanCountsTheSegments := by
  unfold Obligations.PlanCountsTheSegments
  intro s
  rw [exec_eq_commandResult, commandResult]
  refine ⟨rfl, fun hB => congrArg _ (planCommand_of_budget_past hB),
    fun hB h8 => congrArg _ (planCommand_of_no_payload hB h8), fun hB h8 hcap => ?_, fun hB h8 hcap => ?_⟩
  · have past : 65535 < s.plannedCount := Nat.lt_of_not_le fun h => Nat.not_lt.2 ((s.plannedCount_le_iff h8 _).1 h) hcap
    exact congrArg _ (planCommand_of_capacity_past hB h8 past)
  · have fits : s.plannedCount ≤ 65535 := (s.plannedCount_le_iff h8 _).2 hcap
    exact ⟨s.plannedCount, fits, rfl, (s.plannedCount_le_iff h8 _).1 le_rfl, fun k => (s.plannedCount_le_iff h8 k).2,
      congrArg _ (planCommand_of_checks hB h8 fits)⟩

/-! ### FRAME (R286) -/

theorem frameCommand_of_budget_past {enc : Bool} {s : State} (hB : s.bMax < s.budget.toNat) :
    frameCommand enc s = s.completed .configRange := by
  rcases frameCommand_cases enc s with ⟨-, e⟩ | ⟨h, -⟩ | ⟨h, -⟩ | ⟨h, -⟩ | ⟨h, -⟩
  · rw [e, finish_eq_completed]
  all_goals exact absurd (s.budgetOutOfRange_iff.2 hB) h

theorem frameCommand_of_no_payload {enc : Bool} {s : State} (hB : s.budget.toNat ≤ s.bMax)
    (h8 : s.budget.toNat ≤ 8) : frameCommand enc s = s.completed .configTooSmall := by
  rcases frameCommand_cases enc s with ⟨h, -⟩ | ⟨-, -, e⟩ | ⟨-, h, -⟩ | ⟨-, h, -⟩ | ⟨-, h, -⟩
  · exact absurd (s.budgetOutOfRange_iff.1 h) (Nat.not_lt.2 hB)
  · rw [e, finish_eq_completed]
  all_goals exact absurd h (Nat.not_lt.2 h8)

theorem frameCommand_of_long_slice {enc : Bool} {s : State} (hB : s.budget.toNat ≤ s.bMax) (h8 : 8 < s.budget.toNat)
    (hs : s.maxPayload < s.blkLen.toNat) : frameCommand enc s = s.completed .sliceTooLong := by
  rcases frameCommand_cases enc s with ⟨h, -⟩ | ⟨-, h, -⟩ | ⟨-, -, -, e⟩ | ⟨-, -, h, -⟩ | ⟨-, -, h, -⟩
  · exact absurd (s.budgetOutOfRange_iff.1 h) (Nat.not_lt.2 hB)
  · exact absurd h8 (Nat.not_lt.2 h)
  · rw [e, finish_eq_completed]
  all_goals exact absurd hs (Nat.not_lt.2 h)

theorem frameCommand_of_bad_key {s : State} (hB : s.budget.toNat ≤ s.bMax) (h8 : 8 < s.budget.toNat)
    (hs : s.blkLen.toNat ≤ s.maxPayload) (hk : ¬ s.keyOk = true) : frameCommand true s = s.completed .keyInvalid := by
  rcases frameCommand_cases true s with ⟨h, -⟩ | ⟨-, h, -⟩ | ⟨-, -, h, -⟩ | ⟨-, -, -, -, e⟩ | ⟨-, -, -, h, -⟩
  · exact absurd (s.budgetOutOfRange_iff.1 h) (Nat.not_lt.2 hB)
  · exact absurd h8 (Nat.not_lt.2 h)
  · exact absurd h (Nat.not_lt.2 hs)
  · rw [e, finish_eq_completed]
  · exact absurd ⟨rfl, hk⟩ h

/-- FRAME leaves every byte outside TXBUF[0:B] as it was (R286). -/
theorem read_frameDone_of_outside {enc : Bool} {s : State} {a : Nat} (h8 : 8 < s.budget.toNat)
    (hs : s.blkLen.toNat ≤ s.maxPayload)
    (ha : ¬ (Ram.base .txbuf ≤ a ∧ a < Ram.base .txbuf + s.budget.toNat)) :
    (frameDone enc s).mem.read a = s.mem.read a := by
  have hlen : (s.applyCipher enc (ser s.frameSegment)).length = s.budget.toNat := by
    rw [State.length_applyCipher, s.length_ser_frameSegment h8 hs]
  exact read_emitDatagram_of_outside (hlen ▸ ha)

/-- Settles O29: the two words run one command, which has five outcomes. -/
theorem framePacksChecksumsAndSerializes : Obligations.FramePacksChecksumsAndSerializes := by
  unfold Obligations.FramePacksChecksumsAndSerializes
  intro s w i enc hrow
  have row : encode i = w ∧ commandResult s i = frameCommand enc s := by
    simp only [List.mem_cons, List.not_mem_nil, or_false, Prod.mk.injEq] at hrow
    rcases hrow with ⟨rfl, rfl, rfl⟩ | ⟨rfl, rfl, rfl⟩ <;> exact ⟨rfl, rfl⟩
  obtain ⟨hword, hresult⟩ := row
  rw [exec_eq_commandResult, hresult]
  refine ⟨(decodeAcceptsExactlyTheEncodings w i).2 hword, fun hB => congrArg _ (frameCommand_of_budget_past hB),
    fun hB h8 => congrArg _ (frameCommand_of_no_payload hB h8),
    fun hB h8 hs => congrArg _ (frameCommand_of_long_slice hB h8 hs), fun hB h8 hs henc hk => ?_,
    fun hB h8 hs hk blk c hblk hc => ?_⟩
  · rw [henc, frameCommand_of_bad_key hB h8 hs (s.not_keyOk_iff.2 hk)]
  · obtain rfl : blk = s.frameSegment.block := hblk.trans s.frameSegment_block.symm
    obtain rfl : c = s.frameSegment.checksum := hc
    rw [frameCommand_of_checks hB h8 hs fun henc => s.keyOk_iff.2 (hk henc)]
    exact ⟨_, rfl, ramBytes_frameDone_applyCipher enc h8 hs, fun a => read_frameDone_of_outside h8 hs, rfl⟩

/-! ### The split of a payload (R280 to R283) -/

/-- Segment i of the split of `p` into blocks of `m` bytes, counted from 0 (R280). -/
def splitSegment (p : List Byte) (m i : Nat) : Segment :=
  framedSegment (BitVec.ofNat 16 (ceilDiv p.length m)) (BitVec.ofNat 16 (i + 1)) (packBlock m (payloadSlice p m i))

/-- All segments of the split, in order (R280). -/
def splitSegments (p : List Byte) (m : Nat) : List Segment :=
  (List.range (ceilDiv p.length m)).map (splitSegment p m)

/-- Everything `split` can do (R280 to R282). -/
theorem split_cases (p : List Byte) (b : Nat) :
    (b ≤ 8 ∧ split p b = .error .configTooSmall) ∨
    (8 < b ∧ 65535 * (b - 8) < p.length ∧ split p b = .error .capacityExceeded) ∨
    (8 < b ∧ p.length ≤ 65535 * (b - 8) ∧ split p b = .ok (splitSegments p (b - 8))) := by
  by_cases hb : b ≤ Config.headerSize
  · exact .inl ⟨hb, by simp only [split, if_pos hb]⟩
  · have h8 : 8 < b := Nat.lt_of_not_le hb
    have capacity := ceilDiv_le_iff (n := p.length) (k := 65535) (Nat.sub_pos_of_lt h8)
    by_cases hc : Config.maxSegments < ceilDiv p.length (b - Config.headerSize)
    · exact .inr (.inl ⟨h8, Nat.lt_of_not_le fun h => Nat.not_lt.2 (capacity.2 h) hc, by
        simp only [split, if_neg hb, if_pos hc]⟩)
    · refine .inr (.inr ⟨h8, capacity.1 (Nat.le_of_not_lt hc), ?_⟩)
      simp only [split, if_neg hb, if_neg hc]
      rfl

@[simp] theorem length_splitSegments (p : List Byte) (m : Nat) :
    (splitSegments p m).length = ceilDiv p.length m := by
  rw [splitSegments, List.length_map, List.length_range]

theorem getElem_splitSegments (p : List Byte) (m : Nat) {i : Nat} (hi : i < (splitSegments p m).length) :
    (splitSegments p m)[i] = splitSegment p m i := by
  simp only [splitSegments, List.getElem_map, List.getElem_range]

/-- A slice is never longer than a block (R280). -/
theorem length_payloadSlice_le (p : List Byte) (m i : Nat) : (payloadSlice p m i).length ≤ m :=
  List.length_take_le _ _

/-- The slices of a payload in order give back as much of it as they cover. -/
theorem flatten_payloadSlice (p : List Byte) (m t : Nat) :
    ((List.range t).map (payloadSlice p m)).flatten = p.take (t * m) := by
  induction t with
  | zero => rw [Nat.zero_mul]; rfl
  | succ t ih =>
    rw [List.range_succ, List.map_append, List.flatten_append, ih, Nat.succ_mul, List.take_add]
    exact congrArg _ List.flatten_singleton

/-- Padding a slice to a whole block is slicing the payload followed by zero bytes (R283). -/
theorem packBlock_payloadSlice (p : List Byte) {m i pad : Nat} (h : (i + 1) * m ≤ p.length + pad) :
    packBlock m (payloadSlice p m i) = payloadSlice (p ++ zeros pad) m i := by
  rw [Nat.succ_mul] at h
  have padding : m - min m (p.length - i * m) = min (m - (p.length - i * m)) (pad - (i * m - p.length)) := by omega
  simp only [packBlock, payloadSlice, zeros, List.drop_append, List.take_append, List.length_take, List.length_drop,
    List.drop_replicate, List.take_replicate, padding]

/-- The blocks of the split are the payload, zero-padded to whole blocks (R283, R289). -/
theorem flatten_splitSegments_block (p : List Byte) {m : Nat} (hm : 0 < m) :
    ((splitSegments p m).map Segment.block).flatten = p ++ zeros (ceilDiv p.length m * m - p.length) := by
  have covers := le_ceilDiv_mul p.length hm
  have blocks : (splitSegments p m).map Segment.block =
      (List.range (ceilDiv p.length m)).map (payloadSlice (p ++ zeros (ceilDiv p.length m * m - p.length)) m) := by
    rw [splitSegments, List.map_map]
    refine List.map_congr_left fun i hi => packBlock_payloadSlice p ?_
    have whole : (i + 1) * m ≤ ceilDiv p.length m * m := Nat.mul_le_mul_right m (List.mem_range.1 hi)
    omega
  rw [blocks, flatten_payloadSlice, List.take_of_length_le]
  rw [List.length_append, length_zeros]
  omega

/-- Settles O30: `splitSegments` is the split when neither check fails. -/
theorem splitCoversThePayload : Obligations.SplitCoversThePayload := by
  unfold Obligations.SplitCoversThePayload
  intro p b
  rcases split_cases p b with ⟨h8, e⟩ | ⟨h8, hp, e⟩ | ⟨h8, hp, e⟩
  · exact ⟨fun _ => e, fun h => absurd h8 (Nat.not_le.2 h), fun h => absurd h8 (Nat.not_le.2 h)⟩
  · exact ⟨fun h => absurd h8 (Nat.not_lt.2 h), fun _ _ => e, fun _ h => absurd hp (Nat.not_lt.2 h)⟩
  · refine ⟨fun h => absurd h8 (Nat.not_lt.2 h), fun _ h => absurd hp (Nat.not_le.2 h), fun _ _ => ?_⟩
    have hm : 0 < b - 8 := Nat.sub_pos_of_lt h8
    have count : ceilDiv p.length (b - 8) ≤ 65535 := (ceilDiv_le_iff hm).2 hp
    have short := ceilDiv_mul_lt p.length hm
    refine ⟨_, ceilDiv p.length (b - 8) * (b - 8) - p.length, e, length_splitSegments p (b - 8), fun i hi => ?_,
      by omega, flatten_splitSegments_block p hm⟩
    rw [getElem_splitSegments, length_splitSegments]
    rw [length_splitSegments] at hi
    exact ⟨toNat_ofNat_half count, toNat_ofNat_half (Nat.le_trans hi count),
      length_packBlock _ _ (length_payloadSlice_le p (b - 8) i), rfl⟩

/-! ### FRAME emits the split (R288, R289) -/

/-- With slice i in PBUF and its counts in the SEG registers, as R288 has the host write them, FRAME makes segment i. -/
theorem State.frameSegment_eq_splitSegment (s : State) {p : List Byte} {i : Nat}
    (hs : s.blkLen.toNat = min s.maxPayload (p.length - i * s.maxPayload))
    (hslice : s.ramBytes .pbuf 0 s.blkLen.toNat = (p.drop (i * s.maxPayload)).take s.blkLen.toNat)
    (htotal : s.segTotal.toNat = ceilDiv p.length s.maxPayload) (hindex : s.segIndex.toNat = i + 1) :
    s.frameSegment = splitSegment p s.maxPayload i := by
  have slice : s.ramBytes .pbuf 0 s.blkLen.toNat = payloadSlice p s.maxPayload i := by
    rw [hslice, hs, payloadSlice, List.take_eq_take_iff, List.length_drop]
    omega
  rw [State.frameSegment, splitSegment, slice, ← htotal, ← hindex, ← setWidth_eq_ofNat, ← setWidth_eq_ofNat,
    BitVec.setWidth_eq, BitVec.setWidth_eq]

/-- Settles O31: FRAME passes its checks, and the segment it makes is the split's. -/
theorem frameEmitsTheSegmentsOfSplit : Obligations.FrameEmitsTheSegmentsOfSplit := by
  unfold Obligations.FrameEmitsTheSegmentsOfSplit
  intro s p gs i hi hsplit hB hs hslice htotal hindex
  rcases split_cases p s.budget.toNat with ⟨-, e⟩ | ⟨-, -, e⟩ | ⟨h8, -, e⟩
  · exact absurd (hsplit.symm.trans e) nofun
  · exact absurd (hsplit.symm.trans e) nofun
  · obtain rfl : gs = splitSegments p s.maxPayload := Except.ok.inj (hsplit.symm.trans e)
    rw [length_splitSegments] at htotal
    have segment : s.frameSegment = splitSegment p s.maxPayload i :=
      s.frameSegment_eq_splitSegment hs hslice htotal hindex
    have fits : s.blkLen.toNat ≤ s.maxPayload := hs.trans_le (Nat.min_le_left _ _)
    have framed : commandResult s .frame = frameDone false s := frameCommand_of_checks hB h8 fits nofun
    rw [exec_eq_commandResult, framed, getElem_splitSegments, ← segment]
    exact ⟨_, rfl, ramBytes_frameDone h8 fits, rfl, rfl⟩

end Sys2Proof.Machine
end

section
/-! SUPPORT and proofs. The accumulator (spec/44_reassembly.md): what `lookup` and `alloc` name (R322, R323); RX refused
(R326, R333), discarding (R331, R334, R335) and appending (R326 to R330); RELEASE (R337); and what no command but
RELEASE removes (R338). -/

namespace Sys2Proof.Machine

/-! ### The table (R322, R323) -/

/-- Distinct keys leave one valid slot of a key, so the first is the only one. -/
theorem lookup_eq_some_of_valid {slots : List Slot} {k : PeerKey} {j : Nat}
    (distinct : slots.Pairwise fun a b => a.valid = true → b.valid = true → a.key ≠ b.key)
    (hj : j < slots.length) (hv : slots[j].valid = true) (hk : slots[j].key = k) : lookup slots k = some j := by
  rw [lookup, List.findIdx?_eq_some_iff_getElem]
  refine ⟨hj, by simp [hv, hk], fun i hij => ?_⟩
  have hkeys := List.pairwise_iff_getElem.1 distinct i j (hij.trans hj) hj hij
  simpa using fun hvi hki => hkeys hvi hv (hki.trans hk.symm)

theorem lookup_eq_none_of_absent {slots : List Slot} {k : PeerKey}
    (h : ∀ sl ∈ slots, sl.valid = true → sl.key ≠ k) : lookup slots k = none := by
  rw [lookup, List.findIdx?_eq_none_iff]
  simpa using h

/-- Settles O32: distinct keys make the first match the only one. -/
theorem lookupFindsTheSlotOfTheKey : Obligations.LookupFindsTheSlotOfTheKey := by
  unfold Obligations.LookupFindsTheSlotOfTheKey
  intro slots k distinct
  exact ⟨fun j => ⟨lookup_some, fun ⟨hj, hv, hk⟩ => lookup_eq_some_of_valid distinct hj hv hk⟩,
    lookup_none, lookup_eq_none_of_absent⟩

/-- In a finite table `alloc` is a search of the table (R323). -/
theorem alloc_finite (n : Nat) (slots : List Slot) :
    alloc (.finite n) slots = slots.findIdx? (fun sl => !sl.valid) := by
  unfold alloc
  cases slots.findIdx? (fun sl => !sl.valid) <;> rfl

theorem alloc_finite_eq_none_iff (n : Nat) (slots : List Slot) :
    alloc (.finite n) slots = none ↔ ∀ sl ∈ slots, sl.valid = true := by
  rw [alloc_finite, List.findIdx?_eq_none_iff]
  simp only [Bool.not_eq_false']

/-- Settles O33: the search stops at the first free slot. -/
theorem allocFindsTheLowestFreeSlot : Obligations.AllocFindsTheLowestFreeSlot := by
  unfold Obligations.AllocFindsTheLowestFreeSlot
  refine fun n slots => ⟨fun j => ?_, alloc_finite_eq_none_iff n slots⟩
  rw [alloc_finite, List.findIdx?_eq_some_iff_getElem]
  simp only [Bool.not_eq_true', Bool.not_eq_false]

/-! ### RX refused (R326, R333) -/

/-- The two words of RX run one command. -/
theorem exec_rx {i : Instr} {enc : Bool} (hrow : (i, enc) ∈ [(Instr.rx, false), (Instr.rxDec, true)]) (s : State) :
    exec i s = .next (rxCommand enc s) := by
  simp only [List.mem_cons, List.not_mem_nil, or_false, Prod.mk.injEq] at hrow
  rcases hrow with ⟨rfl, rfl⟩ | ⟨rfl, rfl⟩ <;> exact exec_eq_commandResult _ s

theorem rxCommand_of_delivering {enc : Bool} {s : State} (hd : s.deliver = true) :
    rxCommand enc s = s.completed .deliverPending := by
  rcases rxCommand_cases enc s with ⟨-, e⟩ | ⟨h, -⟩ | ⟨h, -⟩ | ⟨h, -⟩ | ⟨h, -⟩
  · rw [e, finish_eq_completed]
  all_goals exact absurd (h.symm.trans hd) (by decide)

theorem rxCommand_of_budget_past {enc : Bool} {s : State} (hd : s.deliver = false) (hB : s.bMax < s.budget.toNat) :
    rxCommand enc s = s.completed .configRange := by
  rcases rxCommand_cases enc s with ⟨h, -⟩ | ⟨-, -, e⟩ | ⟨-, h, -⟩ | ⟨-, h, -⟩ | ⟨-, h, -⟩
  · exact absurd (hd.symm.trans h) (by decide)
  · rw [e, finish_eq_completed]
  all_goals exact absurd (s.budgetOutOfRange_iff.2 hB) h

theorem rxCommand_of_bad_key {s : State} (hd : s.deliver = false) (hB : s.budget.toNat ≤ s.bMax)
    (hk : ¬ s.keyOk = true) : rxCommand true s = s.completed .keyInvalid := by
  rcases rxCommand_cases true s with ⟨h, -⟩ | ⟨-, h, -⟩ | ⟨-, -, -, e⟩ | ⟨-, -, h, -⟩ | ⟨-, -, h, -⟩
  · exact absurd (hd.symm.trans h) (by decide)
  · exact absurd (s.budgetOutOfRange_iff.1 h) (Nat.not_lt.2 hB)
  · rw [e, finish_eq_completed]
  all_goals exact absurd ⟨rfl, hk⟩ h

/-- Settles O34: the first three outcomes of RX. -/
theorem rxIsRefusedBeforeConsuming : Obligations.RxIsRefusedBeforeConsuming := by
  unfold Obligations.RxIsRefusedBeforeConsuming
  intro s i enc hrow
  rw [exec_rx hrow]
  refine ⟨fun hd => congrArg _ (rxCommand_of_delivering hd), fun hd hB => congrArg _ (rxCommand_of_budget_past hd hB),
    fun hd hB henc hk => ?_⟩
  rw [henc, rxCommand_of_bad_key hd hB (s.not_keyOk_iff.2 hk)]

/-! ### RX discarding (R331, R334, R335) -/

/-- RX consumes a datagram: no check of R326 before that refuses it. -/
structure RxConsumes (enc : Bool) (s : State) : Prop where
  not_delivering : s.deliver = false
  budget_in_range : s.budget.toNat ≤ s.bMax
  key_in_range : enc = true → 1 ≤ s.keyLen.toNat ∧ s.keyLen.toNat ≤ 32

theorem rxCommand_of_short {enc : Bool} {s : State} (hc : RxConsumes enc s) (hlen : s.rxExtent < 8) :
    rxCommand enc s = { s.completed .bufferTooSmall with
      cntRx := s.cntRx + 1, cntShort := s.cntShort + 1, rxInfo := RxInfo.zero } := by
  rcases rxCommand_cases enc s with
    ⟨h, -⟩ | ⟨-, h, -⟩ | ⟨-, -, ⟨henc, h⟩, -⟩ | ⟨-, -, -, -, e⟩ | ⟨-, -, -, h, -⟩
  · exact absurd (hc.not_delivering.symm.trans h) (by decide)
  · exact absurd (s.budgetOutOfRange_iff.1 h) (Nat.not_lt.2 hc.budget_in_range)
  · exact absurd (s.keyOk_iff.2 (hc.key_in_range henc)) h
  · rw [e, finish_eq_completed]
    rfl
  · exact absurd (s.length_datagram enc ▸ h) (Nat.not_le.2 hlen)

/-- CNT_RX counts the consumed datagram, before anything else happens to it (R326). -/
def State.counted (s : State) : State := { s with cntRx := s.cntRx + 1 }

/-- The segment in the received datagram, decrypted if ENC (R244, R325). -/
def State.rxSegment (s : State) (enc : Bool) : Segment := parseSegment (s.datagram enc)

theorem State.length_block_rxSegment (s : State) (enc : Bool) : (s.rxSegment enc).block.length = s.rxExtent - 8 := by
  rw [State.rxSegment, parseSegment, List.length_drop, s.length_datagram, Config.headerSize]

/-- A datagram with a whole header is a segment for the table (R326). -/
theorem rxCommand_of_segment {enc : Bool} {s : State} (hc : RxConsumes enc s) (hlen : 8 ≤ s.rxExtent) :
    rxCommand enc s = receiveSegment (s.rxSegment enc) s.counted := by
  rcases rxCommand_cases enc s with
    ⟨h, -⟩ | ⟨-, h, -⟩ | ⟨-, -, ⟨henc, h⟩, -⟩ | ⟨-, -, -, h, -⟩ | ⟨-, -, -, -, e⟩
  · exact absurd (hc.not_delivering.symm.trans h) (by decide)
  · exact absurd (s.budgetOutOfRange_iff.1 h) (Nat.not_lt.2 hc.budget_in_range)
  · exact absurd (s.keyOk_iff.2 (hc.key_in_range henc)) h
  · exact absurd (s.length_datagram enc ▸ h) (Nat.not_lt.2 hlen)
  · exact e

/-- Settles O35: `rxExtent` is the length of the statement. -/
theorem rxDiscardsShortDatagrams : Obligations.RxDiscardsShortDatagrams := by
  unfold Obligations.RxDiscardsShortDatagrams
  intro s i enc hrow hd hB hk hlen
  rw [exec_rx hrow, rxCommand_of_short ⟨hd, hB, hk⟩ hlen]
  rfl

/-- A discard counts, records its fault and ends with its error code: FAULT, CMD_DONE and CMD_ERR together
(R402, R406). -/
theorem discardDatagram_eq_completed (f : FaultBit) {code : ErrCode} (hcode : code ≠ .ok) (s : State) :
    discardDatagram f code s = { s.completed code with
      cntDrop := s.cntDrop + 1
      rxInfo := RxInfo.zero
      faults := s.faults ||| f.mask
      irqStatus := s.irqStatus ||| 0x13 } := by
  have irq : s.irqStatus ||| irqFault ||| finishIrq code = s.irqStatus ||| 0x13 := by
    rw [BitVec.or_assoc, finishIrq, if_neg hcode]
    rfl
  exact congrArg (fun irq => { s.completed code with
    cntDrop := s.cntDrop + 1, rxInfo := RxInfo.zero, faults := s.faults ||| f.mask, irqStatus := irq }) irq

theorem receiveSegment_of_full {g : Segment} {s : State} (hl : lookup s.slots s.peerKey = none)
    (ha : alloc s.build.peerSlots s.slots = none) :
    receiveSegment g s = discardDatagram .peerTableFull .peerTableFull s := by
  rw [receiveSegment, hl, ha]

/-- Settles O36: neither `lookup` nor `alloc` answers a slot. -/
theorem rxDiscardsWhenTheTableIsFull : Obligations.RxDiscardsWhenTheTableIsFull := by
  unfold Obligations.RxDiscardsWhenTheTableIsFull
  intro s i enc hrow hd hB hk hlen hfull hfinite
  have hl : lookup s.slots s.peerKey = none := lookup_eq_none_of_absent fun sl hsl _ => (hfull sl hsl).2
  have ha : alloc s.build.peerSlots s.slots = none := by
    cases hp : s.build.peerSlots with
    | unbounded => exact absurd hp hfinite
    | finite n => exact (alloc_finite_eq_none_iff n _).2 fun sl hsl => (hfull sl hsl).1
  rw [exec_rx hrow, rxCommand_of_segment ⟨hd, hB, hk⟩ hlen, receiveSegment_of_full (s := s.counted) hl ha,
    discardDatagram_eq_completed _ (by decide)]
  rfl

theorem State.slot_eq_getElem {s : State} {j : Nat} (hj : j < s.slots.length) : s.slot j = s.slots[j] :=
  List.getD_eq_getElem _ _ hj

theorem State.slot_past {s : State} {j : Nat} (hj : s.slots.length ≤ j) : s.slot j = Slot.free :=
  List.getD_eq_default _ _ hj

/-- The slot that a consumed segment goes to: the one the peer holds, or a new one (R322, R323, R326). -/
inductive RxSlot (s : State) : Nat → Bool → Prop
  | held {j : Nat} (hl : lookup s.slots s.peerKey = some j) : RxSlot s j false
  | fresh {j : Nat} (hl : lookup s.slots s.peerKey = none) (ha : alloc s.build.peerSlots s.slots = some j) :
    RxSlot s j true

theorem RxSlot.receiveSegment_eq {s : State} {j : Nat} {isNew : Bool} (h : RxSlot s j isNew) (g : Segment) :
    receiveSegment g s = receiveInto j isNew g s := by
  cases h with
  | held hl => exact receiveSegment_of_held hl
  | fresh hl ha => rw [receiveSegment, hl, ha]

theorem RxSlot.writable {s : State} {j : Nat} {isNew : Bool} (h : RxSlot s j isNew) : s.writableSlot j := by
  cases h with
  | held hl => exact .inl (lookup_some hl).1
  | fresh _ ha => exact (alloc_some ha).imp_left Exists.fst

/-- Counting the datagram changes nothing that the search depends on. -/
theorem RxSlot.counted {s : State} {j : Nat} {isNew : Bool} (h : RxSlot s j isNew) : RxSlot s.counted j isNew := by
  cases h with
  | held hl => exact .held hl
  | fresh hl ha => exact .fresh hl ha

/-- RX with a slot for the segment (R326). -/
theorem RxSlot.rxCommand_eq {enc isNew : Bool} {s : State} {j : Nat} (h : RxSlot s j isNew) (hc : RxConsumes enc s)
    (hlen : 8 ≤ s.rxExtent) :
    rxCommand enc s = receiveInto j isNew (s.rxSegment enc) s.counted :=
  (rxCommand_of_segment hc hlen).trans (h.counted.receiveSegment_eq _)

theorem receiveInto_of_overflow {j : Nat} {isNew : Bool} {g : Segment} {s : State}
    (h : s.build.slotBytes.admits (appendBase s j isNew + g.block.length) = false) :
    receiveInto j isNew g s = discardDatagram .accOverflow .accOverflow s := by
  rcases receiveInto_cases j isNew g s with ⟨-, e⟩ | ⟨hfits, -⟩ | ⟨hfits, -⟩
  · exact e
  all_goals exact absurd (h.symm.trans hfits) (by decide)

/-- Settles O37: the slot is found, held or new, and the block does not fit it. -/
theorem rxDiscardsWhenTheSlotOverflows : Obligations.RxDiscardsWhenTheSlotOverflows := by
  unfold Obligations.RxDiscardsWhenTheSlotOverflows
  intro s i enc j base bytes hrow hd hB hk hlen hslot hlimit hpast
  obtain ⟨isNew, hj, rfl⟩ : ∃ isNew, RxSlot s j isNew ∧ base = appendBase s j isNew := by
    rcases hslot with ⟨hl, hbase⟩ | ⟨hl, ha, hbase⟩
    · exact ⟨false, .held hl, hbase⟩
    · exact ⟨true, .fresh hl ha, hbase⟩
  have overflow : s.build.slotBytes.admits
      (appendBase s j isNew + (s.rxSegment enc).block.length) = false := by
    rw [hlimit, s.length_block_rxSegment, Limit.admits, decide_eq_false_iff_not]
    exact Nat.not_le.2 hpast
  rw [exec_rx hrow, hj.rxCommand_eq ⟨hd, hB, hk⟩ hlen, receiveInto_of_overflow (s := s.counted) overflow,
    discardDatagram_eq_completed _ (by decide)]
  rfl

/-! ### RX appending (R326 to R330) -/

theorem RxSlot.append_key {s : State} {j : Nat} {isNew : Bool} (h : RxSlot s j isNew) (block : List Byte) :
    ((s.slot j).append isNew s.peerKey block).key = s.peerKey := by
  cases h with
  | held hl =>
    obtain ⟨hj, -, hk⟩ := lookup_some hl
    exact (congrArg Slot.key (State.slot_eq_getElem hj)).trans hk
  | fresh => rfl

/-- The advisory check of an appended segment raises INTEGRITY on a mismatch only (R326, R328). -/
theorem irqStatus_appendSegment (j : Nat) (isNew : Bool) (g : Segment) (s : State) :
    (appendSegment j isNew g s).irqStatus = s.irqStatus ||| (if verifySegment g = true then 0 else 0x08) := by
  have recorded (ok : Bool) (u : State) :
      (recordIntegrity ok u).irqStatus = u.irqStatus ||| (if ok = true then 0 else 0x08) := by
    cases ok with
    | true => exact (BitVec.or_zero).symm
    | false => rfl
  exact recorded _ _

/-- What RX leaves of a segment that it appends to slot j, field by field (R326 to R330). -/
def rxDone (j : Nat) (isNew : Bool) (g : Segment) (s : State) : State :=
  { s.completed .ok with
    segCrc := g.checksum
    segTotal := g.total
    segIndex := g.index
    blkLen := BitVec.ofNat 16 g.block.length
    result := segmentChecksum g.total g.index g.block
    integrityOk := verifySegment g
    integrityValid := true
    slots := putSlot s.slots j ((s.slot j).append isNew s.peerKey g.block)
    rxInfo := { slot := BitVec.ofNat 8 j, appended := true, isNew := isNew }
    cntBadCrc := if verifySegment g = true then s.cntBadCrc else s.cntBadCrc + 1
    irqStatus := s.irqStatus ||| 0x01 ||| (if verifySegment g = true then 0 else 0x08) |||
      (if g.index = g.total then 0x04 else 0)
    deliver := if g.index = g.total then true else s.deliver
    outSlot := if g.index = g.total then j else s.outSlot
    outLen := if g.index = g.total then appendBase s j isNew + g.block.length else s.outLen
    outCount := if g.index = g.total then ((s.slot j).append isNew s.peerKey g.block).count else s.outCount
    outPeer := if g.index = g.total then s.peerKey else s.outPeer
    cntDone := if g.index = g.total then s.cntDone + 1 else s.cntDone }

/-- Of a segment that completes the transfer: DELIVER is raised before CMD_DONE (R329, R330, R402). -/
theorem finish_enterDelivery_eq_rxDone {j : Nat} {isNew : Bool} {g : Segment} {s : State} (hj : s.writableSlot j)
    (hf : g.index = g.total) : finish .ok (enterDelivery j (appendSegment j isNew g s)) = rxDone j isNew g s := by
  have irq : (rxDone j isNew g s).irqStatus = (appendSegment j isNew g s).irqStatus ||| irqDeliver ||| irqCmdDone := by
    simp only [irqStatus_appendSegment, rxDone, if_pos hf, irqDeliver, irqCmdDone]
    ac_rfl
  have others : { finish .ok (enterDelivery j (appendSegment j isNew g s)) with
      irqStatus := (rxDone j isNew g s).irqStatus } = rxDone j isNew g s := by
    simp only [enterDelivery, slot_appendSegment j isNew g hj, rxDone, if_pos hf]
    rfl
  rw [irq] at others
  exact others

theorem finish_appendSegment_eq_rxDone {j : Nat} {isNew : Bool} {g : Segment} {s : State} (hf : g.index ≠ g.total) :
    finish .ok (appendSegment j isNew g s) = rxDone j isNew g s := by
  have irq : (rxDone j isNew g s).irqStatus = (appendSegment j isNew g s).irqStatus ||| irqCmdDone := by
    simp only [irqStatus_appendSegment, rxDone, if_neg hf, irqCmdDone]
    ac_rfl
  have others : { finish .ok (appendSegment j isNew g s) with irqStatus := (rxDone j isNew g s).irqStatus } =
      rxDone j isNew g s := by
    simp only [rxDone, if_neg hf]
    rfl
  rw [irq] at others
  exact others

theorem receiveInto_eq_rxDone {j : Nat} {isNew : Bool} {g : Segment} {s : State} (hj : s.writableSlot j)
    (fits : s.build.slotBytes.admits (appendBase s j isNew + g.block.length) = true) :
    receiveInto j isNew g s = rxDone j isNew g s := by
  rcases receiveInto_cases j isNew g s with ⟨h, -⟩ | ⟨-, hf, e⟩ | ⟨-, hf, e⟩
  · exact absurd (h.symm.trans fits) (by decide)
  · exact e.trans (finish_enterDelivery_eq_rxDone hj hf)
  · exact e.trans (finish_appendSegment_eq_rxDone hf)

/-- The table after RX has appended (R326). -/
theorem slot_rxDone {s : State} {j : Nat} (hj : s.writableSlot j) (isNew : Bool) (g : Segment) (k : Nat) :
    (rxDone j isNew g s).slot k = if k = j then (s.slot j).append isNew s.peerKey g.block else s.slot k :=
  getD_putSlot _ _ _ _ hj.le_length

theorem length_le_putSlot (slots : List Slot) (j : Nat) (x : Slot) : slots.length ≤ (putSlot slots j x).length := by
  unfold putSlot
  split
  · rw [List.length_set]
  · rw [List.length_append]
    exact Nat.le_add_right _ _

/-- The block stands in the STORE from the old LEN on, and no other byte of the STORE changes (R326). -/
theorem read_append_store (s : State) (j : Nat) (isNew : Bool) (k : PeerKey) (block : List Byte) (o : Nat) :
    ((s.slot j).append isNew k block).store.read o =
      if appendBase s j isNew ≤ o ∧ o < appendBase s j isNew + block.length then
        byteAt block (o - appendBase s j isNew)
      else (s.slot j).store.read o :=
  Memory.read_writeBytes _ _ _ _

theorem verifySegment_iff (g : Segment) :
    verifySegment g = true ↔ segmentChecksum g.total g.index g.block = g.checksum :=
  beq_iff_eq

/-- BLK_LEN holds the length of the block without loss (R324, R326). -/
theorem State.toNat_blkLen_rxSegment (s : State) (enc : Bool) :
    (BitVec.ofNat 16 (s.rxSegment enc).block.length).toNat = s.rxExtent - 8 := by
  have hB := s.budget.isLt
  have hL := s.rxExtent_le_budget
  rw [s.length_block_rxSegment, toNat_ofNat_half (by omega)]

/-- OUT_* and CNT_DONE change with DELIVER only (R329, R330). -/
theorem rxDone_delivery (j : Nat) (isNew : Bool) (g : Segment) {s : State} (hd : s.deliver = false) :
    if g.index = g.total then
      (rxDone j isNew g s).deliver = true ∧ (rxDone j isNew g s).outSlot = j ∧
        (rxDone j isNew g s).outLen = appendBase s j isNew + g.block.length ∧
        (rxDone j isNew g s).outCount = ((s.slot j).append isNew s.peerKey g.block).count ∧
        (rxDone j isNew g s).outPeer = s.peerKey ∧ (rxDone j isNew g s).cntDone = s.cntDone + 1
    else
      (rxDone j isNew g s).deliver = false ∧ (rxDone j isNew g s).outSlot = s.outSlot ∧
        (rxDone j isNew g s).outLen = s.outLen ∧ (rxDone j isNew g s).outCount = s.outCount ∧
        (rxDone j isNew g s).outPeer = s.outPeer ∧ (rxDone j isNew g s).cntDone = s.cntDone := by
  split
  · next hf => simp only [rxDone, if_pos hf, and_self]
  · next hf => simp only [rxDone, if_neg hf, hd, and_self]

/-- Settles O38: the segment goes to its slot, and `rxDone` is what RX leaves. -/
theorem rxAppendsAndCompletes : Obligations.RxAppendsAndCompletes := by
  unfold Obligations.RxAppendsAndCompletes
  intro s i enc isNew j base count0 p hrow hd hB hk hlen hslot fits hp
  obtain rfl : p = s.datagram enc := hp
  obtain ⟨hj, rfl, rfl⟩ : RxSlot s j isNew ∧ base = appendBase s j isNew ∧
      count0 = if isNew then 0 else (s.slot j).count := by
    rcases hslot with ⟨rfl, hl, hbase, hcount⟩ | ⟨rfl, hl, ha, hbase, hcount⟩
    · exact ⟨.held hl, hbase, hcount⟩
    · exact ⟨.fresh hl ha, hbase, hcount⟩
  have hblock := s.length_block_rxSegment enc
  have received : rxCommand enc s = rxDone j isNew (s.rxSegment enc) s.counted :=
    (hj.rxCommand_eq ⟨hd, hB, hk⟩ hlen).trans (receiveInto_eq_rxDone hj.counted.writable (hblock ▸ fits))
  have slots := slot_rxDone hj.counted.writable isNew (s.rxSegment enc)
  have slot := (slots j).trans (if_pos rfl)
  have store := read_append_store s j isNew s.peerKey (s.rxSegment enc).block
  have delivery := rxDone_delivery j isNew (s.rxSegment enc) (s := s.counted) hd
  rw [hblock] at store delivery
  refine ⟨_, (exec_rx hrow s).trans (congrArg _ received), rfl, rfl, rfl, s.toNat_blkLen_rxSegment enc, rfl, rfl, rfl,
    ?valid, ?key, ?len, ?count, ?written, ?kept, fun k hkj => (slots k).trans (if_neg hkj), length_le_putSlot _ _ _,
    rfl, if_congr (verifySegment_iff _) rfl rfl, ?irq, delivery, rfl⟩
  case valid => rw [slot]; rfl
  case key => rw [slot]; exact hj.append_key _
  case len => rw [slot, ← hblock]; rfl
  case count => rw [slot]; rfl
  case written =>
    intro o ho
    rw [slot]
    refine (store _).trans ((if_pos (by omega)).trans ?_)
    rw [Nat.add_sub_cancel_left]
    exact byteAt_drop _ _ _
  case kept =>
    intro o ho
    rw [slot]
    exact (store o).trans (if_neg ho)
  case irq =>
    simp only [rxDone, verifySegment_iff]
    rfl

/-! ### RELEASE (R337) -/

theorem releaseCommand_of_not_delivering {s : State} (hd : s.deliver = false) :
    releaseCommand s = s.completed .notDelivering := by
  rcases releaseCommand_cases s with ⟨-, e⟩ | ⟨h, -⟩
  · rw [e, finish_eq_completed]
  · exact absurd (hd.symm.trans h) (by decide)

theorem releaseCommand_of_delivering {s : State} (hd : s.deliver = true) :
    releaseCommand s = { s.completed .ok with slots := freeSlot s.slots s.outSlot, deliver := false } := by
  rcases releaseCommand_cases s with ⟨h, -⟩ | ⟨-, e⟩
  · exact absurd (h.symm.trans hd) (by decide)
  · rw [e]
    rfl

/-- A number past the table names the free slot, which erasing leaves as it is. -/
theorem getD_freeSlot_self (slots : List Slot) (j : Nat) :
    (freeSlot slots j).getD j Slot.free = (slots.getD j Slot.free).erase := by
  rw [getD_freeSlot]
  split
  · rfl
  · next h =>
    rw [List.getD_eq_default _ _ (by omega : slots.length ≤ j)]
    rfl

theorem getD_freeSlot_of_ne (slots : List Slot) {j k : Nat} (h : k ≠ j) :
    (freeSlot slots j).getD k Slot.free = slots.getD k Slot.free := by
  rw [getD_freeSlot, if_neg fun hk => h hk.1]

/-- Settles O39: the two outcomes of RELEASE. -/
theorem releaseFreesTheDeliveredSlot : Obligations.ReleaseFreesTheDeliveredSlot := by
  unfold Obligations.ReleaseFreesTheDeliveredSlot
  intro s
  rw [exec_eq_commandResult, commandResult]
  refine ⟨rfl, fun hd => congrArg _ (releaseCommand_of_not_delivering hd), fun hd => ?_⟩
  have freed := getD_freeSlot_self s.slots s.outSlot
  refine ⟨_, congrArg _ (releaseCommand_of_delivering hd), rfl, length_freeSlot _ _, congrArg Slot.valid freed,
    congrArg Slot.key freed, congrArg Slot.len freed, congrArg Slot.count freed, (congrArg Slot.store freed :),
    fun k hk => getD_freeSlot_of_ne s.slots hk, fun o => ?_, rfl⟩
  rw [State.outByte_eq]
  exact if_neg fun h => Bool.false_ne_true h.1

/-! ### What no command but RELEASE removes (R338) -/

/-- `b` still holds the transfer in `a`: VALID, the same peer, and the bytes of `a` first (R338). -/
def Slot.Keeps (a b : Slot) : Prop :=
  b.valid = true ∧ b.key = a.key ∧ a.len ≤ b.len ∧ ∀ o, o < a.len → b.store.read o = a.store.read o

theorem Slot.keeps_of_eq {a b : Slot} (h : b = a) (hv : a.valid = true) : a.Keeps b := by
  subst h
  exact ⟨hv, rfl, le_rfl, fun _ _ => rfl⟩

/-- An append to a held slot writes past the end of the transfer (R326). -/
theorem Slot.keeps_append (a : Slot) (k : PeerKey) (block : List Byte) : a.Keeps (a.append false k block) := by
  refine ⟨rfl, rfl, Nat.le_add_right _ _, fun o ho => ?_⟩
  exact (Memory.read_writeBytes _ _ _ _).trans (if_neg fun h => Nat.not_le.2 ho h.1)

/-- A slot that `alloc` answers holds no transfer (R323). -/
theorem RxSlot.not_valid {s : State} {j : Nat} (h : RxSlot s j true) : (s.slot j).valid = false := by
  cases h with
  | fresh _ ha =>
    rcases alloc_some ha with ⟨hj, hv⟩ | ⟨-, hj⟩
    · rw [State.slot_eq_getElem hj, hv]
    · rw [State.slot_past hj.ge, Slot.free]

theorem RxSlot.keeps_append {s : State} {j : Nat} {isNew : Bool} (h : RxSlot s j isNew)
    (hv : (s.slot j).valid = true) (block : List Byte) :
    (s.slot j).Keeps ((s.slot j).append isNew s.peerKey block) := by
  cases isNew with
  | false => exact Slot.keeps_append _ _ _
  | true => exact absurd (h.not_valid.symm.trans hv) (by decide)

theorem RxSlot.receiveInto_keeps {s : State} {j : Nat} {isNew : Bool} (hj : RxSlot s j isNew) (g : Segment) {k : Nat}
    (hv : (s.slot k).valid = true) : (s.slot k).Keeps ((receiveInto j isNew g s).slot k) := by
  cases fits : s.build.slotBytes.admits (appendBase s j isNew + g.block.length) with
  | false =>
    rw [receiveInto_of_overflow fits]
    exact Slot.keeps_of_eq rfl hv
  | true =>
    rw [receiveInto_eq_rxDone hj.writable fits, slot_rxDone hj.writable]
    split
    · next hkj => exact hkj ▸ hj.keeps_append (hkj ▸ hv) g.block
    · exact Slot.keeps_of_eq rfl hv

theorem receiveSegment_keeps {s : State} (g : Segment) {k : Nat} (hv : (s.slot k).valid = true) :
    (s.slot k).Keeps ((receiveSegment g s).slot k) := by
  rcases receiveSegment_cases g s with ⟨j, hl, e⟩ | ⟨hl, j, ha, e⟩ | ⟨-, -, e⟩ <;> rw [e]
  · exact (RxSlot.held hl).receiveInto_keeps g hv
  · exact (RxSlot.fresh hl ha).receiveInto_keeps g hv
  · exact Slot.keeps_of_eq rfl hv

theorem rxCommand_keeps (enc : Bool) {s : State} {k : Nat} (hv : (s.slot k).valid = true) :
    (s.slot k).Keeps ((rxCommand enc s).slot k) := by
  rcases rxCommand_cases enc s with
    ⟨-, e⟩ | ⟨-, -, e⟩ | ⟨-, -, -, e⟩ | ⟨-, -, -, -, e⟩ | ⟨-, -, -, -, e⟩ <;> rw [e]
  case inr.inr.inr.inr => exact receiveSegment_keeps (s := s.counted) _ hv
  all_goals exact Slot.keeps_of_eq rfl hv

/-- RELEASE removes the delivered transfer or none. -/
theorem releaseCommand_keeps {s : State} {k : Nat} (hv : (s.slot k).valid = true) :
    (s.slot k).Keeps ((releaseCommand s).slot k) ∨ (s.deliver = true ∧ s.outSlot = k) := by
  rcases releaseCommand_cases s with ⟨-, e⟩ | ⟨hd, e⟩ <;> rw [e]
  · exact .inl (Slot.keeps_of_eq rfl hv)
  · by_cases hk : k = s.outSlot
    · exact .inr ⟨hd, hk.symm⟩
    · have kept : (finish .ok { s with slots := freeSlot s.slots s.outSlot, deliver := false }).slot k = s.slot k :=
        getD_freeSlot_of_ne s.slots hk
      exact .inl (Slot.keeps_of_eq kept hv)

/-- No other command writes the table (spec/70_reset_and_hazards.md R460). -/
theorem commandResult_slots {i : Instr} (h : i ∉ [Instr.rx, .rxDec, .release]) (s : State) :
    (commandResult s i).slots = s.slots := by
  cases i <;> simp only [commandResult]
  case nop => rfl
  case crcRx | crcTx | crcPb => rcases crcCommand_cases _ s with ⟨-, e⟩ | ⟨-, e⟩ <;> rw [e] <;> rfl
  case xorRx | xorTx | xorPb => rcases xorCommand_cases _ s with ⟨-, e⟩ | ⟨-, -, e⟩ | ⟨-, -, e⟩ <;> rw [e] <;> rfl
  case plan =>
    rcases planCommand_cases s with ⟨-, e⟩ | ⟨-, -, e⟩ | ⟨-, -, -, e⟩ | ⟨-, -, -, e⟩ <;> rw [e] <;> rfl
  case frame | frameEnc =>
    rcases frameCommand_cases _ s with ⟨-, e⟩ | ⟨-, -, e⟩ | ⟨-, -, -, e⟩ | ⟨-, -, -, -, e⟩ | ⟨-, -, -, -, e⟩ <;>
      rw [e] <;> rfl
  case serialize | serializeEnc =>
    rcases serializeCommand_cases _ s with ⟨-, e⟩ | ⟨-, -, e⟩ | ⟨-, -, -, e⟩ | ⟨-, -, -, e⟩ <;> rw [e] <;> rfl
  case deserialize => rcases deserializeCommand_cases s with ⟨-, e⟩ | ⟨-, -, e⟩ | ⟨-, -, e⟩ <;> rw [e] <;> rfl
  case verify => rcases verifyCommand_cases s with ⟨-, e⟩ | ⟨-, e⟩ <;> rw [e] <;> rfl
  case rx | rxDec | release => exact absurd h (by decide)

/-- Settles O40: RX appends, RELEASE frees the delivered slot, and no other command writes the table. -/
theorem onlyReleaseRemovesATransfer : Obligations.OnlyReleaseRemovesATransfer := by
  unfold Obligations.OnlyReleaseRemovesATransfer
  intro i s t j hexec hv
  rw [exec_eq_commandResult] at hexec
  obtain rfl := Host.Outcome.next.inj hexec
  by_cases hi : i ∈ [Instr.rx, .rxDec, .release]
  · simp only [List.mem_cons, List.not_mem_nil, or_false] at hi
    rcases hi with rfl | rfl | rfl
    · exact .inl (rxCommand_keeps false hv)
    · exact .inl (rxCommand_keeps true hv)
    · exact (releaseCommand_keeps hv).imp id fun removed => ⟨rfl, removed⟩
  · have kept : (commandResult s i).slot j = s.slot j := by
      rw [State.slot, commandResult_slots hi, State.slot]
    exact .inl (Slot.keeps_of_eq kept hv)

end Sys2Proof.Machine
end

section
/-! SUPPORT and proofs. Control (spec/45_control.md): NOP and the words of opcode 0 (R380), a word that is no command
(R384), and the two registers that act when they are written: CTRL (R385, R451) and CMD (R40, R381, R382). -/

namespace Sys2Proof.Machine

/-! ### A word that is no command (R384) -/

/-- What the illegal command leaves is what R402 writes out for its code. -/
theorem illegalCommand_eq_completed (s : State) : illegalCommand s = s.completed .illegalCmd := rfl

/-- The code ILLEGAL_CMD records CMD_DONE and CMD_ERR, and LAST_OP is the low byte of the word (R402). -/
theorem completed_illegalCmd (s : State) :
    s.completed .illegalCmd = { s with
      errCode := .illegalCmd
      lastOp := s.pending.setWidth 8
      irqStatus := s.irqStatus ||| 0x03
      engState := .idle } := by
  rw [BitVec.setWidth_eq_extractLsb' (by decide)]
  rfl

/-- With no reset requested, the end of the ENGINE's step changes nothing (R130). -/
theorem applyPendingReset_of_not_pending {s : State} (h : s.resetPending = false) : applyPendingReset s = s := by
  rw [applyPendingReset, h, if_neg Bool.false_ne_true]

/-- With no reset requested, a BUSY engine whose word is no command completes with ILLEGAL_CMD (R156, R384). -/
theorem engineStep_illegal {s : State} {e : DecodeError} (hbusy : s.engState = .busy) (hreset : s.resetPending = false)
    (hd : decode s.pending = .error e) : engineStep s = .next (s.completed .illegalCmd) := by
  have noReset : applyPendingReset (illegalCommand s) = illegalCommand s := applyPendingReset_of_not_pending hreset
  rw [engineStep, hbusy, hd]
  exact congrArg _ (noReset.trans (illegalCommand_eq_completed s))

/-- Settles O5: the ENGINE's turn is the illegal command, and no reset follows it. -/
theorem stepOnIllegalWordOnlyRecordsIt : Obligations.StepOnIllegalWordOnlyRecordsIt := by
  unfold Obligations.StepOnIllegalWordOnlyRecordsIt
  intro s rest e hnext hbusy hreset hdecode
  have illegal : engineStep { s with arrivals := rest } =
      .next ({ s with arrivals := rest : State }.completed .illegalCmd) := engineStep_illegal hbusy hreset hdecode
  rw [step_of_engine_next hnext, illegal, completed_illegalCmd]

/-! ### NOP and the words of opcode 0 (R380) -/

/-- Opcode 0 is NOP's alone (R152). -/
theorem eq_nop_of_opcode_zero {i : Instr} (h : i.fields.opcode = 0) : i = .nop := by
  cases i
  case nop => rfl
  all_goals exact absurd h (by decide)

/-- The only command among the words of opcode 0 is NOP (R380). -/
theorem eq_nop_of_decode {w : Word} {i : Instr} (hop : w.extractLsb' 0 8 = 0) (h : decode w = .ok i) : i = .nop :=
  eq_nop_of_opcode_zero <| by
    rw [← (decode_eq_ok_iff w i).1 h]
    exact hop

/-- Settles O12: a word of opcode 0 that is a command is NOP's, so it is `encode .nop`, the word 0. -/
theorem nopOnlyCompletes : Obligations.NopOnlyCompletes := by
  unfold Obligations.NopOnlyCompletes
  have decode_nop (w : Word) : decode w = .ok .nop ↔ 0 = w := decodeAcceptsExactlyTheEncodings w .nop
  refine ⟨(decode_nop 0).2 rfl, fun w hop hw => ?_, fun s => ?_⟩
  · cases hd : decode w with
    | error e => exact ⟨e, rfl⟩
    | ok i =>
      obtain rfl := eq_nop_of_decode hop hd
      exact absurd ((decode_nop w).1 hd).symm hw
  · rw [exec_eq_commandResult, commandResult, finish_eq_completed]

/-! ### The registers that act when they are written (R38, R40) -/

/-- A whole-word write of a register that R462 lets the host write at any time is performed, whatever runs. -/
theorem hostWrite_of_writeDefined (s : State) (v : Word) {addr : Word} {r : Csr}
    (haddr : Csr.atOffset addr.toNat = some r) (hdef : r.writeDefined = true) :
    hostWrite addr .w32 v s = .next (s.writeCsr v r) := by
  have harmless : s.footprint.hazardCsr r = false := by simp [Footprint.hazardCsr, hdef]
  rw [hostWrite_csr (locate_csr_iff.2 ⟨rfl, haddr⟩), harmless, if_neg Bool.false_ne_true]

/-- A write of CTRL with bit 0 = 0 has no effect (R38). -/
theorem writeCtrl_of_clear {v : Word} (s : State) (h : ¬ v.getLsbD 0 = true) : writeCtrl v s = s := by
  rw [writeCtrl, if_neg h]

/-- In IDLE a soft reset is immediate (R451). -/
theorem writeCtrl_of_idle {v : Word} {s : State} (h : v.getLsbD 0 = true) (hidle : s.engState = .idle) :
    writeCtrl v s = s.resetBlock := by
  rw [writeCtrl, if_pos h, hidle]

/-- While BUSY a soft reset is only requested (R385). -/
theorem writeCtrl_of_busy {v : Word} {s : State} (h : v.getLsbD 0 = true) (hbusy : s.engState = .busy) :
    writeCtrl v s = { s with resetPending := true } := by
  rw [writeCtrl, if_pos h, hbusy]

/-- Settles O9: bit 0 says whether the write acts, ENG_STATE whether it acts now. -/
theorem softResetIsImmediateInIdleAndDeferredInBusy : Obligations.SoftResetIsImmediateInIdleAndDeferredInBusy := by
  unfold Obligations.SoftResetIsImmediateInIdleAndDeferredInBusy
  intro s v
  rw [hostWrite_of_writeDefined s v (r := .ctrl) rfl rfl, State.writeCsr]
  split
  · next hbit =>
    split
    · next hidle => exact congrArg _ ((writeCtrl_of_idle hbit hidle).trans s.resetBlock_eq)
    · next hbusy => exact congrArg _ (writeCtrl_of_busy hbit hbusy)
  · next hclear => exact congrArg _ (writeCtrl_of_clear s hclear)

/-- In IDLE the word is accepted (R40, R381). -/
theorem issueCommand_of_idle (w : Word) {s : State} (hidle : s.engState = .idle) :
    issueCommand w s = { s with pending := w, engState := .busy } := by
  rw [issueCommand, hidle]

/-- While BUSY the word is dropped (R382). -/
theorem issueCommand_of_busy (w : Word) {s : State} (hbusy : s.engState = .busy) :
    issueCommand w s = raiseFault .cmdOverrun s := by
  rw [issueCommand, hbusy]

/-- CMD_OVERRUN in FAULTS and FAULT in IRQ_STATUS (R44, R45, R406). -/
theorem raiseFault_cmdOverrun (s : State) :
    raiseFault .cmdOverrun s = { s with faults := s.faults ||| 0x4, irqStatus := s.irqStatus ||| 0x10 } := rfl

/-- Settles O49: the write is performed whatever runs, and ENG_STATE says whether the word is accepted. -/
theorem cmdWriteIssuesOrOverruns : Obligations.CmdWriteIssuesOrOverruns := by
  unfold Obligations.CmdWriteIssuesOrOverruns
  intro s v
  rw [hostWrite_of_writeDefined s v (r := .cmd) rfl rfl, State.writeCsr]
  split
  · next hidle => exact congrArg _ (issueCommand_of_idle v hidle)
  · next hbusy => exact congrArg _ ((issueCommand_of_busy v hbusy).trans (raiseFault_cmdOverrun s))

end Sys2Proof.Machine
end

section
/-! SUPPORT and proofs. Errors, faults and interrupts (spec/60_exceptions.md): how every command ends (R400, R402), what
clears a fault bit (R407), and what the interrupt output and STATUS show (R39, R401, R409). -/

namespace Sys2Proof.Machine

/-! ### Bits that stay set -/

/-- No bit of FAULTS or IRQ_STATUS that is set in `s` is clear in `t` (R407, R408). -/
structure FlagsKept (s t : State) : Prop where
  irqStatus : s.irqStatus &&& t.irqStatus = s.irqStatus
  faults : s.faults &&& t.faults = s.faults

/-- Setting bits clears none. -/
theorem and_or_eq_left {w : Nat} (x y : BitVec w) : x &&& (x ||| y) = x := by
  apply BitVec.eq_of_getLsbD_eq
  intro i _
  rw [BitVec.getLsbD_and, BitVec.getLsbD_or]
  cases x.getLsbD i <;> rfl

theorem and_eq_left_trans {w : Nat} {x y z : BitVec w} (hxy : x &&& y = x) (hyz : y &&& z = y) : x &&& z = x := by
  rw [← hxy, BitVec.and_assoc, hyz]

theorem FlagsKept.of_eq {s t : State} (hirq : t.irqStatus = s.irqStatus) (hfaults : t.faults = s.faults) :
    FlagsKept s t :=
  ⟨hirq ▸ BitVec.and_self, hfaults ▸ BitVec.and_self⟩

theorem FlagsKept.trans {s t u : State} (h : FlagsKept s t) (k : FlagsKept t u) : FlagsKept s u :=
  ⟨and_eq_left_trans h.irqStatus k.irqStatus, and_eq_left_trans h.faults k.faults⟩

/-- A fault bit that was set and is clear has been cleared. -/
theorem not_flagsKept_of_cleared {s t : State} {k : Nat} (hset : s.faults.getLsbD k = true)
    (hclear : t.faults.getLsbD k = false) : ¬ FlagsKept s t := by
  intro h
  rw [← h.faults, BitVec.getLsbD_and, hclear, Bool.and_false] at hset
  exact Bool.false_ne_true hset

section Operations

variable {s t : State}

/-! The shared operations only set bits (R402, R406). -/

theorem flagsKept_finish (code : ErrCode) (h : FlagsKept s t) : FlagsKept s (finish code t) :=
  h.trans ⟨and_or_eq_left _ _, BitVec.and_self⟩

theorem flagsKept_raiseFault (f : FaultBit) (h : FlagsKept s t) : FlagsKept s (raiseFault f t) :=
  h.trans ⟨and_or_eq_left _ _, and_or_eq_left _ _⟩

theorem flagsKept_recordIntegrity (ok : Bool) (h : FlagsKept s t) : FlagsKept s (recordIntegrity ok t) := by
  cases ok with
  | true => exact h.trans (.of_eq rfl rfl)
  | false => exact h.trans ⟨and_or_eq_left _ _, BitVec.and_self⟩

theorem flagsKept_enterDelivery (j : Nat) (h : FlagsKept s t) : FlagsKept s (enterDelivery j t) :=
  h.trans ⟨and_or_eq_left _ _, BitVec.and_self⟩

theorem flagsKept_appendSegment (j : Nat) (isNew : Bool) (g : Segment) : FlagsKept s (appendSegment j isNew g s) :=
  flagsKept_recordIntegrity _ (.of_eq rfl rfl)

end Operations

/-! ### Every command ends (R400, R402) -/

/-- `t` is the end of a command whose effects, before `finish`, cleared no bit of FAULTS or IRQ_STATUS. -/
def FinishesKeepingFlags (s t : State) : Prop := ∃ code u, t = finish code u ∧ FlagsKept s u

theorem finishesKeepingFlags_finish {s u : State} (code : ErrCode) (h : FlagsKept s u) :
    FinishesKeepingFlags s (finish code u) :=
  ⟨code, u, rfl, h⟩

theorem FinishesKeepingFlags.flagsKept {s t : State} (h : FinishesKeepingFlags s t) : FlagsKept s t := by
  obtain ⟨code, u, rfl, hu⟩ := h
  exact flagsKept_finish code hu

/-- Effects that clear no flag may come before. -/
theorem FlagsKept.andThenFinishes {s t u : State} (h : FlagsKept s t) (k : FinishesKeepingFlags t u) :
    FinishesKeepingFlags s u := by
  obtain ⟨code, v, rfl, hv⟩ := k
  exact finishesKeepingFlags_finish code (h.trans hv)

section Commands

variable (s : State)

theorem finishesKeepingFlags_crc (r : Ram) : FinishesKeepingFlags s (crcCommand r s) := by
  rcases crcCommand_cases r s with ⟨-, e⟩ | ⟨-, e⟩ <;> rw [e] <;> exact finishesKeepingFlags_finish _ (.of_eq rfl rfl)

theorem finishesKeepingFlags_xor (r : Ram) : FinishesKeepingFlags s (xorCommand r s) := by
  rcases xorCommand_cases r s with ⟨-, e⟩ | ⟨-, -, e⟩ | ⟨-, -, e⟩ <;> rw [e] <;>
    exact finishesKeepingFlags_finish _ (.of_eq rfl rfl)

theorem finishesKeepingFlags_plan : FinishesKeepingFlags s (planCommand s) := by
  rcases planCommand_cases s with ⟨-, e⟩ | ⟨-, -, e⟩ | ⟨-, -, -, e⟩ | ⟨-, -, -, e⟩ <;> rw [e] <;>
    exact finishesKeepingFlags_finish _ (.of_eq rfl rfl)

theorem finishesKeepingFlags_frame (enc : Bool) : FinishesKeepingFlags s (frameCommand enc s) := by
  rcases frameCommand_cases enc s with
    ⟨-, e⟩ | ⟨-, -, e⟩ | ⟨-, -, -, e⟩ | ⟨-, -, -, -, e⟩ | ⟨-, -, -, -, e⟩ <;> rw [e] <;>
    exact finishesKeepingFlags_finish _ (.of_eq rfl rfl)

theorem finishesKeepingFlags_serialize (enc : Bool) : FinishesKeepingFlags s (serializeCommand enc s) := by
  rcases serializeCommand_cases enc s with ⟨-, e⟩ | ⟨-, -, e⟩ | ⟨-, -, -, e⟩ | ⟨-, -, -, e⟩ <;> rw [e] <;>
    exact finishesKeepingFlags_finish _ (.of_eq rfl rfl)

theorem finishesKeepingFlags_deserialize : FinishesKeepingFlags s (deserializeCommand s) := by
  rcases deserializeCommand_cases s with ⟨-, e⟩ | ⟨-, -, e⟩ | ⟨-, -, e⟩ <;> rw [e] <;>
    exact finishesKeepingFlags_finish _ (.of_eq rfl rfl)

/-- VERIFY may set INTEGRITY (R250). -/
theorem finishesKeepingFlags_verify : FinishesKeepingFlags s (verifyCommand s) := by
  rcases verifyCommand_cases s with ⟨-, e⟩ | ⟨-, e⟩ <;> rw [e]
  · exact finishesKeepingFlags_finish _ (.of_eq rfl rfl)
  · exact finishesKeepingFlags_finish _ (flagsKept_recordIntegrity _ (.of_eq rfl rfl))

theorem finishesKeepingFlags_release : FinishesKeepingFlags s (releaseCommand s) := by
  rcases releaseCommand_cases s with ⟨-, e⟩ | ⟨-, e⟩ <;> rw [e] <;> exact finishesKeepingFlags_finish _ (.of_eq rfl rfl)

/-- A discard sets a FAULTS bit and FAULT (R334, R335). -/
theorem finishesKeepingFlags_discardDatagram (f : FaultBit) (code : ErrCode) :
    FinishesKeepingFlags s (discardDatagram f code s) :=
  finishesKeepingFlags_finish code (flagsKept_raiseFault f (.of_eq rfl rfl))

/-- An append may set INTEGRITY, and a completion DELIVER (R328, R330). -/
theorem finishesKeepingFlags_receiveInto (j : Nat) (isNew : Bool) (g : Segment) :
    FinishesKeepingFlags s (receiveInto j isNew g s) := by
  have appended : FlagsKept s (appendSegment j isNew g s) := flagsKept_appendSegment j isNew g
  rcases receiveInto_cases j isNew g s with ⟨-, e⟩ | ⟨-, -, e⟩ | ⟨-, -, e⟩ <;> rw [e]
  · exact finishesKeepingFlags_discardDatagram s _ _
  · exact finishesKeepingFlags_finish _ (flagsKept_enterDelivery j appended)
  · exact finishesKeepingFlags_finish _ appended

theorem finishesKeepingFlags_receiveSegment (g : Segment) : FinishesKeepingFlags s (receiveSegment g s) := by
  rcases receiveSegment_cases g s with ⟨j, -, e⟩ | ⟨-, j, -, e⟩ | ⟨-, -, e⟩ <;> rw [e]
  · exact finishesKeepingFlags_receiveInto s j false g
  · exact finishesKeepingFlags_receiveInto s j true g
  · exact finishesKeepingFlags_discardDatagram s _ _

theorem finishesKeepingFlags_rx (enc : Bool) : FinishesKeepingFlags s (rxCommand enc s) := by
  rcases rxCommand_cases enc s with
    ⟨-, e⟩ | ⟨-, -, e⟩ | ⟨-, -, -, e⟩ | ⟨-, -, -, -, e⟩ | ⟨-, -, -, -, e⟩ <;> rw [e]
  case inr.inr.inr.inr =>
    have counted : FlagsKept s s.counted := .of_eq rfl rfl
    exact counted.andThenFinishes (finishesKeepingFlags_receiveSegment s.counted _)
  all_goals exact finishesKeepingFlags_finish _ (.of_eq rfl rfl)

theorem commandResult_finishesKeepingFlags (i : Instr) : FinishesKeepingFlags s (commandResult s i) := by
  cases i
  case nop => exact finishesKeepingFlags_finish _ (.of_eq rfl rfl)
  case crcRx | crcTx | crcPb => exact finishesKeepingFlags_crc s _
  case xorRx | xorTx | xorPb => exact finishesKeepingFlags_xor s _
  case plan => exact finishesKeepingFlags_plan s
  case frame | frameEnc => exact finishesKeepingFlags_frame s _
  case serialize | serializeEnc => exact finishesKeepingFlags_serialize s _
  case deserialize => exact finishesKeepingFlags_deserialize s
  case verify => exact finishesKeepingFlags_verify s
  case rx | rxDec => exact finishesKeepingFlags_rx s _
  case release => exact finishesKeepingFlags_release s

end Commands

/-- CMD_DONE is recorded whatever the code (R402). -/
theorem getLsbD_finish_cmdDone (code : ErrCode) (s : State) : (finish code s).irqStatus.getLsbD 0 = true := by
  rw [finish_irqStatus, BitVec.getLsbD_or, Bool.or_eq_true]
  refine .inr ?_
  unfold finishIrq
  split <;> rfl

/-- CMD_ERR is recorded with every code but OK (R402). -/
theorem getLsbD_finish_cmdErr {code : ErrCode} (h : code ≠ .ok) (s : State) :
    (finish code s).irqStatus.getLsbD 1 = true := by
  rw [finish_irqStatus, BitVec.getLsbD_or, Bool.or_eq_true, finishIrq, if_neg h]
  exact .inr rfl

/-- Settles O7: every command is some effects that clear no flag, then `finish`; none writes PENDING or
RESET_PENDING. -/
theorem everyCommandFinishes : Obligations.EveryCommandFinishes := by
  unfold Obligations.EveryCommandFinishes
  intro i s
  have kept := (commandResult_finishesKeepingFlags s i).flagsKept
  have host := commandResult_hostPart i s
  refine ⟨commandResult s i, exec_eq_commandResult i s, ?_⟩
  obtain ⟨code, u, e, -⟩ := commandResult_finishesKeepingFlags s i
  rw [e] at kept host ⊢
  have hpending : u.pending = s.pending := host.pending
  exact ⟨rfl, by rw [finish_lastOp, hpending], hpending, getLsbD_finish_cmdDone code u,
    fun hcode => getLsbD_finish_cmdErr hcode u, kept.irqStatus, kept.faults, host.resetPending⟩

/-! ### What clears a fault bit (R407) -/

/-- The end of the ENGINE's step clears a flag only by the reset that was requested (R130, R453). -/
theorem flagsKept_applyPendingReset {s u : State} (h : FlagsKept s u) (hreq : u.resetPending = s.resetPending) :
    FlagsKept s (applyPendingReset u) ∨ s.resetPending = true := by
  rcases applyPendingReset_cases u with ⟨hreset, -⟩ | ⟨-, e⟩
  · exact .inr (hreq ▸ hreset)
  · exact .inl (by rwa [e])

theorem engineStep_flagsKept {s t : State} (h : engineStep s = .next t) :
    FlagsKept s t ∨ (s.engState = .busy ∧ s.resetPending = true) := by
  rcases engineStep_cases s with ⟨-, e⟩ | ⟨hbusy, i, -, e⟩ | ⟨hbusy, _, -, e⟩ <;> rw [e] at h <;> cases h
  · exact .inl (.of_eq rfl rfl)
  · have kept := (commandResult_finishesKeepingFlags s i).flagsKept
    have hreq := (commandResult_hostPart i s).resetPending
    exact (flagsKept_applyPendingReset kept hreq).imp_right fun hreset => ⟨hbusy, hreset⟩
  · have kept : FlagsKept s (illegalCommand s) := flagsKept_finish .illegalCmd (.of_eq rfl rfl)
    exact (flagsKept_applyPendingReset kept rfl).imp_right fun hreset => ⟨hbusy, hreset⟩

theorem hostRead_flagsKept (addr : Word) (w : AccessWidth) (s : State) : FlagsKept s (hostRead addr w s) := by
  rcases hostRead_cases addr w s with ⟨-, e⟩ | ⟨-, v, e | e⟩ <;> rw [e]
  · exact (flagsKept_raiseFault .busErr (.of_eq rfl rfl)).trans (.of_eq rfl rfl)
  · exact .of_eq rfl rfl
  · exact .of_eq rfl rfl

/-- A write of CTRL clears a flag only by a soft reset in IDLE (R385, R451). -/
theorem writeCtrl_flagsKept (v : Word) (s : State) :
    FlagsKept s (writeCtrl v s) ∨ (v.getLsbD 0 = true ∧ s.engState = .idle) := by
  by_cases hbit : v.getLsbD 0 = true
  · cases hs : s.engState with
    | idle => exact .inr ⟨hbit, rfl⟩
    | busy =>
      rw [writeCtrl_of_busy hbit hs]
      exact .inl (.of_eq rfl rfl)
  · rw [writeCtrl_of_clear s hbit]
    exact .inl (.of_eq rfl rfl)

theorem issueCommand_flagsKept (w : Word) (s : State) : FlagsKept s (issueCommand w s) := by
  cases hs : s.engState with
  | idle =>
    rw [issueCommand_of_idle w hs]
    exact .of_eq rfl rfl
  | busy =>
    rw [issueCommand_of_busy w hs]
    exact flagsKept_raiseFault .cmdOverrun (.of_eq rfl rfl)

/-- A bit of FAULTS that a write of the register clears was written 1 (R44). -/
theorem getLsbD_of_cleared_by_write {w : Nat} {x : BitVec w} {v : Word} {k : Nat} (hset : x.getLsbD k = true)
    (hclear : (x &&& ~~~(v.setWidth w)).getLsbD k = false) : v.getLsbD k = true := by
  rw [getLsbD_and_not_setWidth x v (BitVec.lt_of_getLsbD hset), hset] at hclear
  simpa using hclear

/-- The two registers whose write can clear a fault bit: FAULTS, and CTRL in IDLE (R38, R44). -/
theorem writeCsr_clears_fault {s : State} {v : Word} {r : Csr} {k : Nat} (hset : s.faults.getLsbD k = true)
    (hclear : (s.writeCsr v r).faults.getLsbD k = false) :
    (r = .faults ∧ v.getLsbD k = true) ∨ (r = .ctrl ∧ v.getLsbD 0 = true ∧ s.engState = .idle) := by
  have cleared : ¬ FlagsKept s (s.writeCsr v r) := not_flagsKept_of_cleared hset hclear
  cases r with
  | ctrl => exact .inr ⟨rfl, (writeCtrl_flagsKept v s).resolve_left cleared⟩
  | cmd => exact absurd (issueCommand_flagsKept v s) cleared
  | faults => exact .inl ⟨rfl, getLsbD_of_cleared_by_write hset hclear⟩
  | irqStatus => exact absurd (hset.symm.trans hclear) (by decide)
  | _ => exact absurd (.of_eq rfl rfl) cleared

/-- A register is reached at its own address only (R34). -/
theorem addr_eq_of_atOffset {a b : Word} {r : Csr} (ha : Csr.atOffset a.toNat = some r)
    (hb : Csr.atOffset b.toNat = some r) : a = b := by
  have distinct : ∀ p ∈ csrOffsets, ∀ q ∈ csrOffsets, p.2 = q.2 → p.1 = q.1 := by decide
  exact BitVec.eq_of_toNat_eq (distinct _ ((mem_csrOffsets_iff _ r).2 ha) _ ((mem_csrOffsets_iff _ r).2 hb) rfl)

/-- The host writes that can clear a fault bit. -/
theorem hostWrite_clears_fault {s t : State} {addr v : Word} {w : AccessWidth} {k : Nat}
    (h : hostWrite addr w v s = .next t) (hset : s.faults.getLsbD k = true) (hclear : t.faults.getLsbD k = false) :
    w = .w32 ∧ ((addr = 0x028 ∧ v.getLsbD k = true) ∨
      (addr = 0x010 ∧ v.getLsbD 0 = true ∧ s.engState = .idle)) := by
  have cleared : ¬ FlagsKept s t := not_flagsKept_of_cleared hset hclear
  rcases hostWrite_cases h with ⟨-, rfl⟩ | ⟨r, hl, -, rfl⟩ | ⟨r, o, -, -, rfl⟩
  · exact absurd (flagsKept_raiseFault .busErr (.of_eq rfl rfl)) cleared
  · obtain ⟨hw, haddr⟩ := locate_csr_iff.1 hl
    refine ⟨hw, ?_⟩
    rcases writeCsr_clears_fault hset hclear with ⟨rfl, hbit⟩ | ⟨rfl, hreset⟩
    · exact .inl ⟨addr_eq_of_atOffset haddr rfl, hbit⟩
    · exact .inr ⟨addr_eq_of_atOffset haddr rfl, hreset⟩
  · exact absurd (.of_eq rfl rfl) cleared

/-- Settles O51: each kind of event either keeps the fault bits or is one of the four that the statement lists. -/
theorem faultBitsAreSticky : Obligations.FaultBitsAreSticky := by
  unfold Obligations.FaultBitsAreSticky
  intro s t k hstep hset hclear
  have cleared (rest : List PortEvent) : ¬ FlagsKept { s with arrivals := rest } t :=
    not_flagsKept_of_cleared hset hclear
  rcases step_cases hstep with
    ⟨hnil, e⟩ | ⟨rest, hdue, e⟩ | ⟨rest, hdue, -⟩ | ⟨a, w, rest, -, rfl⟩ | ⟨a, w, v, rest, hdue, e⟩
  · have reset := (engineStep_flagsKept e).resolve_left (not_flagsKept_of_cleared hset hclear)
    exact .inr (.inr (.inr ⟨.inl hnil, reset⟩))
  · have reset := (engineStep_flagsKept e).resolve_left (cleared rest)
    exact .inr (.inr (.inr ⟨.inr ⟨rest, hdue⟩, reset⟩))
  · exact .inr (.inl ⟨rest, hdue⟩)
  · exact absurd (hostRead_flagsKept a w _) (cleared rest)
  · obtain ⟨rfl, ⟨rfl, hbit⟩ | ⟨rfl, hbit, hidle⟩⟩ := hostWrite_clears_fault e hset hclear
    · exact .inl ⟨v, rest, hdue, hbit⟩
    · exact .inr (.inr (.inl ⟨v, rest, hdue, hbit, hidle⟩))

/-! ### The interrupt output and STATUS (R39, R401, R409) -/

theorem ne_zero_iff_exists_getLsbD {w : Nat} (x : BitVec w) : x ≠ 0 ↔ ∃ i, i < w ∧ x.getLsbD i = true := by
  simp [BitVec.eq_of_getLsbD_eq_iff]

/-- The output is the OR of the enabled pending bits (R409). -/
theorem irqOutput_iff (s : State) :
    s.irqOutput = true ↔ ∃ i, i < 5 ∧ s.irqStatus.getLsbD i = true ∧ s.irqEnable.getLsbD i = true := by
  rw [State.irqOutput, bne_iff_ne, ne_zero_iff_exists_getLsbD]
  simp only [BitVec.getLsbD_and, Bool.and_eq_true]

/-- The error codes and their numbers (R401). -/
def errorNumbers : List (ErrCode × Byte) :=
  [(.ok, 0x00), (.configTooSmall, 0x01), (.capacityExceeded, 0x02), (.bufferTooSmall, 0x03), (.configRange, 0x04),
    (.keyInvalid, 0x05), (.sliceTooLong, 0x06), (.range, 0x07), (.illegalCmd, 0x08), (.deliverPending, 0x09),
    (.notDelivering, 0x0A), (.peerTableFull, 0x0B), (.accOverflow, 0x0C)]

theorem mem_errorNumbers_iff (c : ErrCode) (n : Byte) : (c, n) ∈ errorNumbers ↔ c.code = n := by
  constructor
  · have listed : ∀ p ∈ errorNumbers, p.1.code = p.2 := by decide
    exact listed (c, n)
  · rintro rfl
    cases c <;> decide

/-- Only OK has the number 0 (R401). -/
theorem code_ne_zero_iff (c : ErrCode) : c.code ≠ 0 ↔ c ≠ .ok := by
  cases c <;> decide

/-- The flags of STATUS, by bit position (R39). -/
theorem getLsbD_readCsr_status (s : State) :
    (s.readCsr .status).getLsbD 0 = (s.engState == .busy) ∧
    (s.readCsr .status).getLsbD 1 = s.deliver ∧
    (s.readCsr .status).getLsbD 2 = (s.errCode.code != 0) ∧
    (s.readCsr .status).getLsbD 3 = (s.faults != 0) ∧
    (s.readCsr .status).getLsbD 4 = s.irqOutput := by
  simp only [State.readCsr, State.status, getLsbD_append_flag_succ, getLsbD_append_flag_zero, and_self]

/-- The fields of STATUS above its five flags (R39). -/
theorem extractLsb'_readCsr_status (s : State) (start len : Nat) :
    (s.readCsr .status).extractLsb' (5 + start) len =
      (0#8 ++ s.lastOp ++ s.errCode.code ++ 0#3).extractLsb' start len := by
  rw [State.readCsr, State.status]
  iterate 5 rw [BitVec.extractLsb'_append_eq_of_le (by omega)]
  congr 1
  omega

theorem extractLsb'_readCsr_status_reserved (s : State) : (s.readCsr .status).extractLsb' 5 3 = 0 :=
  (extractLsb'_readCsr_status s 0 3).trans BitVec.extractLsb'_append_eq_right

theorem extractLsb'_readCsr_status_errCode (s : State) :
    (s.readCsr .status).extractLsb' 8 8 = s.errCode.code := by
  rw [extractLsb'_readCsr_status s 3 8, BitVec.extractLsb'_append_eq_of_le (by decide)]
  exact BitVec.extractLsb'_append_eq_right

theorem extractLsb'_readCsr_status_lastOp (s : State) : (s.readCsr .status).extractLsb' 16 8 = s.lastOp := by
  rw [extractLsb'_readCsr_status s 11 8]
  iterate 2 rw [BitVec.extractLsb'_append_eq_of_le (by decide)]
  exact BitVec.extractLsb'_append_eq_right

theorem extractLsb'_readCsr_status_top (s : State) : (s.readCsr .status).extractLsb' 24 8 = 0 := by
  rw [extractLsb'_readCsr_status s 19 8]
  iterate 2 rw [BitVec.extractLsb'_append_eq_of_le (by decide)]
  exact BitVec.extractLsb'_append_eq_left

/-- Settles O50: the output bit by bit, then STATUS field by field. -/
theorem statusShowsTheFlags : Obligations.StatusShowsTheFlags := by
  unfold Obligations.StatusShowsTheFlags
  intro s
  obtain ⟨hbusy, hdeliver, herr, hfault, hirq⟩ := getLsbD_readCsr_status s
  have errCodeRead (c : ErrCode) (n : Byte) (hcn : (c, n) ∈ errorNumbers) (hc : s.errCode = c) :
      (s.readCsr .status).extractLsb' 8 8 = n := by
    rw [extractLsb'_readCsr_status_errCode, hc, (mem_errorNumbers_iff c n).1 hcn]
  refine ⟨irqOutput_iff s, hirq, ?_, hdeliver, ?_, ?_, extractLsb'_readCsr_status_reserved s, errCodeRead,
    extractLsb'_readCsr_status_lastOp s, extractLsb'_readCsr_status_top s⟩
  · rw [hbusy, beq_iff_eq]
  · rw [herr, bne_iff_ne, code_ne_zero_iff]
  · rw [hfault, bne_iff_ne]

end Sys2Proof.Machine
end

section
/-! SUPPORT and proofs. Resets and hazards (spec/70_reset_and_hazards.md): the hardware reset and a reset pending at the
end of a command (R452, R453), the table of footprints (R460), and what host accesses do while a command is running
(R461, R462). -/

namespace Sys2Proof.Machine

/-! ### Resets (R452, R453) -/

/-- Settles O11: the event is the reset itself, whatever runs. -/
theorem hardwareResetAbandonsEverything : Obligations.HardwareResetAbandonsEverything := by
  unfold Obligations.HardwareResetAbandonsEverything
  intro s rest hdue
  rw [step, hdue]
  exact congrArg _ (State.resetBlock_eq _)

/-- A requested reset ends in the same state whatever else was written: it keeps only what no command writes. -/
theorem HostPartKept.applyPendingReset_eq {s t : State} (h : HostPartKept s t) (hreset : s.resetPending = true) :
    applyPendingReset t = s.resetBlock := by
  rw [applyPendingReset, h.resetPending, if_pos hreset, State.resetBlock_eq, State.resetBlock_eq, h.build, h.arrivals,
    h.replies, h.freeReads]

/-- The running command, or the word that is none, ends in the reset that was requested (R453). -/
theorem engineStep_of_resetPending {s : State} (hbusy : s.engState = .busy) (hreset : s.resetPending = true) :
    engineStep s = .next s.resetBlock := by
  rcases engineStep_cases s with ⟨hidle, -⟩ | ⟨-, i, -, e⟩ | ⟨-, _, -, e⟩
  · rw [hbusy] at hidle
    contradiction
  · rw [e, (commandResult_hostPart i s).applyPendingReset_eq hreset]
  · have illegal : HostPartKept s (illegalCommand s) := hostPartKept_finish .illegalCmd (hostPartKept_refl s)
    rw [e, illegal.applyPendingReset_eq hreset]

/-- Settles O10: the ENGINE's turn ends with `applyPendingReset`, and nothing that a reset keeps was written before. -/
theorem pendingResetEndsTheEngineStep : Obligations.PendingResetEndsTheEngineStep := by
  unfold Obligations.PendingResetEndsTheEngineStep
  intro s rest hnext hbusy hreset
  have resets : engineStep { s with arrivals := rest } = .next { s with arrivals := rest : State }.resetBlock :=
    engineStep_of_resetPending hbusy hreset
  rw [step_of_engine_next hnext, resets, State.resetBlock_eq]

/-! ### The table of footprints (R460) -/

/-- The sets of `f`, whatever the order in which it lists them, and whether it writes OUTWIN. -/
def Footprint.HasRow (f : Footprint) (readRegs : List Csr) (readBytes : List RamRange) (writeRegs : List Csr)
    (writeBytes : List RamRange) (outwin : Bool) : Prop :=
  (∀ r, r ∈ f.readCsrs ↔ r ∈ readRegs) ∧ (∀ g, g ∈ f.readRams ↔ g ∈ readBytes) ∧
    (∀ r, r ∈ f.writeCsrs ↔ r ∈ writeRegs) ∧ (∀ g, g ∈ f.writeRams ↔ g ∈ writeBytes) ∧ f.writesOutwin = outwin

theorem Footprint.hasRow_self (f : Footprint) :
    f.HasRow f.readCsrs f.readRams f.writeCsrs f.writeRams f.writesOutwin :=
  ⟨fun _ => .rfl, fun _ => .rfl, fun _ => .rfl, fun _ => .rfl, rfl⟩

/-- The registers that RX writes, in the order of R460. -/
def rxWriteCsrs : List Csr :=
  [.segCrc, .segTotal, .segIndex, .blkLen, .segFlags, .progPct, .result, .rxInfo, .outLen, .outCount, .outSlot,
    .outPeer0, .outPeer1, .outPeer2, .outPeer3, .cntRx, .cntShort, .cntDrop, .cntBadCrc, .cntDone, .faults,
    .slotInfo, .slotCount, .slotLen, .slotKey0, .slotKey1, .slotKey2, .slotKey3]

theorem rxFootprint_writeCsrs_perm (enc : Bool) (s : State) : (rxFootprint enc s).writeCsrs.Perm rxWriteCsrs := by
  unfold rxFootprint
  dsimp only
  decide

/-- RX's row, with FAULTS where R460 lists it. -/
theorem rxFootprint_hasRow (enc : Bool) (s : State) :
    (rxFootprint enc s).HasRow (rxFootprint enc s).readCsrs (rxFootprint enc s).readRams rxWriteCsrs [] true :=
  ⟨fun _ => .rfl, fun _ => .rfl, fun _ => (rxFootprint_writeCsrs_perm enc s).mem_iff, fun _ => .rfl, rfl⟩

/-- Settles O54: the model lists each row as R460 does, but for the place of FAULTS in RX's. -/
theorem footprintsAreTheRowsOfTheTable : Obligations.FootprintsAreTheRowsOfTheTable := by
  unfold Obligations.FootprintsAreTheRowsOfTheTable
  intro s
  have row (i : Instr) := (instrFootprint s i).hasRow_self
  exact ⟨row .nop, row .crcRx, row .crcTx, row .crcPb, row .xorRx, row .xorTx, row .xorPb, row .plan, row .frame,
    row .frameEnc, row .serialize, row .serializeEnc, row .deserialize, row .verify, rxFootprint_hasRow false s,
    rxFootprint_hasRow true s, row .release⟩

/-! ### Host writes while a command is running (R462) -/

/-- The registers that R462 excepts. -/
def writeDefinedCsrs : List Csr := [.cmd, .faults, .irqStatus, .ctrl, .irqEnable]

theorem Csr.writeDefined_iff (r : Csr) : r.writeDefined = true ↔ r ∈ writeDefinedCsrs := by
  cases r <;> decide

/-- A write of a register is a hazard in the read set and in the write set, but for the excepted ones (R462). -/
theorem Footprint.hazardCsr_iff (f : Footprint) (r : Csr) :
    f.hazardCsr r = true ↔ (r ∈ f.readCsrs ∨ r ∈ f.writeCsrs) ∧ r ∉ writeDefinedCsrs := by
  rw [← Csr.writeDefined_iff]
  simp [Footprint.hazardCsr]

/-- Settles O55: one region of the address map at a time, over the row of the running command. -/
theorem writesIntoAFootprintAreHazards : Obligations.WritesIntoAFootprintAreHazards := by
  unfold Obligations.WritesIntoAFootprintAreHazards
  intro s addr v w n i hn hbusy hd
  obtain rfl := AccessWidth.bytes_eq_of_mem hn
  have row := footprint_busy hbusy hd
  refine ⟨fun r hloc => ?_, fun r o hloc => ?_, fun o hloc => ?_⟩
  · rw [hostWrite_csr hloc, row]
    exact if_congr (Footprint.hazardCsr_iff _ r) rfl rfl
  · rw [hostWrite_ram hloc, row]
    exact if_congr (any_holds_iff _ r o w.bytes_pos) rfl rfl
  · rw [hostWrite_outwin hloc, row, instrFootprint_writesOutwin, raiseFault_busErr]
    exact if_congr decide_eq_true_iff rfl rfl

/-- The running XOR commands with the RAM that each works on (R223, R460). -/
theorem instrFootprint_xor (s : State) {i : Instr} {r : Ram}
    (h : (i, r) ∈ [(Instr.xorRx, Ram.rxbuf), (.xorTx, .txbuf), (.xorPb, .pbuf)]) :
    instrFootprint s i = xorFootprint r s ∧ r ≠ .key := by
  simp only [List.mem_cons, List.not_mem_nil, or_false, Prod.mk.injEq] at h
  rcases h with ⟨rfl, rfl⟩ | ⟨rfl, rfl⟩ | ⟨rfl, rfl⟩ <;> exact ⟨rfl, by decide⟩

/-- An access meets the bytes of a running XOR in KEY[0:KEY_LEN] or in the region (R460). -/
theorem meets_xorFootprint_iff (s : State) (r q : Ram) (o : Nat) {n : Nat} (hn : 0 < n) :
    (∃ g ∈ (xorFootprint r s).readRams ++ (xorFootprint r s).writeRams,
        g.ram = q ∧ 0 < g.len ∧ g.off < o + n ∧ o < g.off + g.len) ↔
      (q = .key ∧ o < s.keyLen.toNat) ∨
      (q = r ∧ 0 < s.argLen.toNat ∧ s.argOff.toNat < o + n ∧ o < s.argOff.toNat + s.argLen.toNat) := by
  have key : (0 < s.keyLen.toNat ∧ 0 < o + n ∧ o < 0 + s.keyLen.toNat) ↔ o < s.keyLen.toNat := by omega
  simp only [xorFootprint, List.cons_append, List.nil_append, List.mem_cons, List.not_mem_nil, or_false, or_self,
    exists_eq_or_imp, exists_eq_left, State.keyRange, key, State.regionRange, eq_comm (b := q)]

/-- Settles O52: a case of O55. XOR's read set holds the key, the region and the three operand registers, its write set
the region. -/
theorem writesIntoARunningXorAreHazards : Obligations.WritesIntoARunningXorAreHazards := by
  unfold Obligations.WritesIntoARunningXorAreHazards
  intro s addr v w n i r hn hi hbusy hd
  have hpos : 0 < n := AccessWidth.bytes_eq_of_mem hn ▸ w.bytes_pos
  obtain ⟨hrow, hkey⟩ := instrFootprint_xor s hi
  obtain ⟨writeCsr, writeRam, -⟩ := writesIntoAFootprintAreHazards s addr v w n i hn hbusy hd
  simp only [hrow, meets_xorFootprint_iff s r _ _ hpos] at writeCsr writeRam
  refine ⟨fun o hloc => ?_, fun o hloc => ?_, fun q o hr hk hloc => ?_, fun q hq hloc => ?_⟩
  · rw [writeRam r o hloc]
    exact if_congr (by simp [hkey]) rfl rfl
  · rw [writeRam .key o hloc]
    exact if_congr (by simp [hkey.symm]) rfl rfl
  · rw [writeRam q o hloc, if_neg (by simp [hr, hk])]
  · have operand : q ∈ (xorFootprint r s).readCsrs := hq
    have notExcepted : ∀ q ∈ [Csr.argOff, .argLen, .keyLen], q ∉ writeDefinedCsrs := by decide
    rw [writeCsr q hloc, if_pos ⟨.inl operand, notExcepted q hq⟩]

/-! ### Host reads while a command is running (R461) -/

/-- The registers that are always defined (R461). -/
def alwaysDefinedCsrs : List Csr :=
  [.status, .irqStatus, .faults, .irqEnable, .ctrl, .cmd, .id, .param0, .param1, .param2]

theorem Csr.alwaysDefined_iff (r : Csr) : r.alwaysDefined = true ↔ r ∈ alwaysDefinedCsrs := by
  cases r <;> decide

/-- A read of a register is free in the write set, but for the registers that are always defined (R461). -/
theorem Footprint.freeCsr_iff (f : Footprint) (r : Csr) :
    f.freeCsr r = true ↔ r ∈ f.writeCsrs ∧ r ∉ alwaysDefinedCsrs := by
  rw [← Csr.alwaysDefined_iff]
  simp [Footprint.freeCsr]

/-- A read of a RAM byte is free in the write set (R461). -/
theorem Footprint.freeByte_iff (f : Footprint) (r : Ram) (o : Nat) :
    f.freeByte r o = true ↔ ∃ g ∈ f.writeRams, g.ram = r ∧ g.off ≤ o ∧ o < g.off + g.len := by
  simp only [Footprint.freeByte, List.any_eq_true, RamRange.holds_iff]

/-- Settles O56: one region of the address map at a time, over the write set of the running command. The free bytes of a
window read are lanes of one free value. -/
theorem readsOfAWriteSetAreFree : Obligations.ReadsOfAWriteSetAreFree := by
  unfold Obligations.ReadsOfAWriteSetAreFree
  intro s addr w n i hn hbusy hd
  obtain rfl := AccessWidth.bytes_eq_of_mem hn
  have row := footprint_busy hbusy hd
  refine ⟨fun r hloc => ?_, fun r o hloc => ?_, fun o hi hloc => ?_⟩
  · rw [hostRead_csr hloc, row]
    exact if_congr (Footprint.freeCsr_iff _ r) rfl rfl
  · obtain ⟨a, hread, hlanes⟩ := readWindow_spec s w.bytes (fun k => s.ram r (o + k))
      (fun k => (instrFootprint s i).freeByte r (o + k))
    refine ⟨a, ?_, fun k hk => ?_⟩
    · rw [hostRead_ram hloc, row, hread]
      simp only [Footprint.freeByte, any_holds_iff _ r o w.bytes_pos]
    · rw [hlanes k hk]
      simp only [Footprint.freeByte_iff, lane]
  · have takesFree : (List.range w.bytes).any (fun _ => true) = true :=
      List.any_eq_true.2 ⟨0, List.mem_range.2 w.bytes_pos, rfl⟩
    obtain ⟨a, hread, hlanes⟩ := readWindow_spec s w.bytes (fun k => s.outByte (o + k)) (fun _ => true)
    refine ⟨a, ?_, hlanes⟩
    rw [hostRead_outwin hloc, row, instrFootprint_writesOutwin, decide_eq_true hi, hread, if_pos takesFree]

/-- What FRAME and FRAME.enc write: TXBUF[0:B] and three registers (R286, R460). -/
theorem instrFootprint_frame (s : State) {i : Instr} (h : i ∈ [Instr.frame, .frameEnc]) :
    (instrFootprint s i).writeRams = [s.txRange] ∧ (instrFootprint s i).writeCsrs = [.segCrc, .result, .txLen] := by
  simp only [List.mem_cons, List.not_mem_nil, or_false] at h
  rcases h with rfl | rfl <;> exact ⟨rfl, rfl⟩

/-- Settles O53: a case of O56, the write set being TXBUF[0:B] and the three registers. -/
theorem readsOfARunningFramesOutputAreFree : Obligations.ReadsOfARunningFramesOutputAreFree := by
  unfold Obligations.ReadsOfARunningFramesOutputAreFree
  intro s addr w n i hn hi hbusy hd
  have hpos : 0 < n := AccessWidth.bytes_eq_of_mem hn ▸ w.bytes_pos
  obtain ⟨hbytes, hregs⟩ := instrFootprint_frame s hi
  obtain ⟨readCsr, readRam, -⟩ := readsOfAWriteSetAreFree s addr w n i hn hbusy hd
  refine ⟨fun o hloc => ?_, fun r hr hloc => ?_⟩
  · have meets : (0 < s.budget.toNat ∧ 0 < o + n ∧ o < s.budget.toNat) ↔ o < s.budget.toNat := by omega
    simpa only [hbytes, List.mem_singleton, exists_eq_left, State.txRange, true_and, meets, Nat.zero_le, Nat.zero_add]
      using readRam .txbuf o hloc
  · have notExcepted : ∀ r ∈ [Csr.segCrc, .result, .txLen], r ∉ alwaysDefinedCsrs := by decide
    rw [readCsr r hloc, hregs]
    exact if_pos ⟨hr, notExcepted r hr⟩

end Sys2Proof.Machine
end
